-- ==== Sys2Proof/Word.lean ====
section
/-! DEFINITION. The word types of NES-CORE: 8-bit data, 16-bit CPU addresses, 14-bit PPU-bus addresses, the
15-bit scroll registers (00_scope.md R6, R10; 10_state.md R45). -/

namespace Sys2Proof

/-- A `u8`: every data register, every bus byte (R6, R10). -/
abbrev Byte := BitVec 8

/-- A `u16`: PC and every CPU-bus address (R6, R25). -/
abbrev Word := BitVec 16

/-- A 14-bit address of the PPU bus (R90). -/
abbrev PpuAddr := BitVec 14

/-- A 15-bit scroll register, `ppu.v` or `ppu.t` (R45). -/
abbrev Scroll := BitVec 15

end Sys2Proof
end

