-- ==== Sys2Proof/Machine/Bits.lean ====
section
/-! DEFINITION. Bit-field and byte-order helpers: `{hi, lo}` concatenation, the bytes of a word, `zext_16`, `sext_16`,
`pagecross`, `rev8`, and the replacement of a field of a 15-bit scroll register (00_scope.md R10, R16). -/

namespace Sys2Proof.Machine

/-- `{hi, lo}` (R10): the 16-bit word whose high byte is `hi`. -/
def joinBytes (hi lo : Byte) : Word := hi ++ lo

/-- `w[15:8]`. -/
def hiByte (w : Word) : Byte := w.extractLsb' 8 8

/-- `w[7:0]`. -/
def loByte (w : Word) : Byte := w.extractLsb' 0 8

/-- `zext_16(b)` (R10). -/
def zext16 (b : Byte) : Word := b.setWidth 16

/-- `sext_16(b)` (R10): bit 7 is copied into bits 15 to 8. -/
def sext16 (b : Byte) : Word := b.signExtend 16

/-- `pagecross(base, ea)` (R16): the high bytes differ. -/
def pageCross (base ea : Word) : Bool := hiByte base != hiByte ea

/-- `rev8(b)` (R10, R367): bit i of the result is bit 7 - i of `b`. -/
def rev8 (b : Byte) : Byte := b.reverse

/-- `v[lo+k-1:lo] <- f` on a 15-bit scroll register: the `k` bits of `f` replace the field that starts at bit `lo`,
every other bit stays (R10's `v[hi:lo]` on the left of `<-`). -/
def putField {k : Nat} (v : Scroll) (lo : Nat) (f : BitVec k) : Scroll :=
  (v &&& ~~~((BitVec.allOnes k).setWidth 15 <<< lo)) ||| (f.setWidth 15 <<< lo)

end Sys2Proof.Machine
end

