-- ==== Sys2Proof/Syntax/Operand.lean ====
section
/-! DEFINITION. The 56 mnemonics, the 13 addressing modes and the operand forms of an instruction (30_encoding.md R122,
R126 to R138, R152). -/

namespace Sys2Proof

/-- The 13 addressing modes (R122). -/
inductive Mode where
  /-- Implicit (R126). -/
  | imp
  /-- Accumulator (R127). -/
  | acc
  /-- Immediate (R128). -/
  | imm
  /-- Zeropage (R129). -/
  | zp
  /-- Zeropage,X (R130). -/
  | zpx
  /-- Zeropage,Y (R131). -/
  | zpy
  /-- Relative (R132). -/
  | rel
  /-- Absolute (R133). -/
  | abs
  /-- Absolute,X (R134). -/
  | abx
  /-- Absolute,Y (R135). -/
  | aby
  /-- Indirect (R136). -/
  | ind
  /-- Indirect-X, indexed indirect (R137). -/
  | izx
  /-- Indirect-Y, indirect indexed (R138). -/
  | izy
  deriving DecidableEq, Repr

/-- The byte length of an instruction, by its addressing mode (R122). -/
def Mode.length : Mode → Nat
  | .imp | .acc => 1
  | .imm | .zp | .zpx | .zpy | .rel | .izx | .izy => 2
  | .abs | .abx | .aby | .ind => 3

/-- An addressing mode with its concrete operand bytes: `b1`, or the 16-bit operand of a 3-byte instruction (R121, R125). -/
inductive Operand where
  | imp
  | acc
  | imm (value : Byte)
  | zp (address : Byte)
  | zpx (address : Byte)
  | zpy (address : Byte)
  | rel (offset : Byte)
  | abs (address : Word)
  | abx (base : Word)
  | aby (base : Word)
  | ind (pointer : Word)
  | izx (pointer : Byte)
  | izy (pointer : Byte)
  deriving DecidableEq, Repr

/-- The addressing mode of an operand. -/
def Operand.mode : Operand → Mode
  | .imp => .imp
  | .acc => .acc
  | .imm _ => .imm
  | .zp _ => .zp
  | .zpx _ => .zpx
  | .zpy _ => .zpy
  | .rel _ => .rel
  | .abs _ => .abs
  | .abx _ => .abx
  | .aby _ => .aby
  | .ind _ => .ind
  | .izx _ => .izx
  | .izy _ => .izy

/-- The 56 mnemonics (R152). -/
inductive Mnemonic where
  | adc | and | asl | bcc | bcs | beq | bit | bmi
  | bne | bpl | brk | bvc | bvs | clc | cld | cli
  | clv | cmp | cpx | cpy | dec | dex | dey | eor
  | inc | inx | iny | jmp | jsr | lda | ldx | ldy
  | lsr | nop | ora | pha | php | pla | plp | rol
  | ror | rti | rts | sbc | sec | sed | sei | sta
  | stx | sty | tax | tay | tsx | txa | txs | tya
  deriving DecidableEq, Repr

/-- Every mnemonic, in the order of R152. -/
def Mnemonic.all : List Mnemonic :=
  [.adc, .and, .asl, .bcc, .bcs, .beq, .bit, .bmi, .bne, .bpl, .brk, .bvc, .bvs, .clc] ++
  [.cld, .cli, .clv, .cmp, .cpx, .cpy, .dec, .dex, .dey, .eor, .inc, .inx, .iny, .jmp] ++
  [.jsr, .lda, .ldx, .ldy, .lsr, .nop, .ora, .pha, .php, .pla, .plp, .rol, .ror, .rti] ++
  [.rts, .sbc, .sec, .sed, .sei, .sta, .stx, .sty, .tax, .tay, .tsx, .txa, .txs, .tya]

end Sys2Proof
end

