-- ==== Sys2Proof/Syntax.lean ====
section
/-! DEFINITION. The instructions: one constructor per mnemonic of spec/opcode_table.json, its operand carrying the
addressing mode, so that every row of the table is one constructor at one mode; and one constructor for the table's
105 "(undefined)" rows (30_encoding.md R152, R160). -/

namespace Sys2Proof

/-- An instruction: a mnemonic with its operand (R120, R125). An operand form the table does not pair with the mnemonic
is ill-formed (WellFormed.lean). -/
inductive Instr where
  -- Load and store (40_load_store.md)
  /-- LDA, load A (R201). -/
  | lda (o : Operand)
  /-- LDX, load X (R202). -/
  | ldx (o : Operand)
  /-- LDY, load Y (R203). -/
  | ldy (o : Operand)
  /-- STA, store A (R204). -/
  | sta (o : Operand)
  /-- STX, store X (R205). -/
  | stx (o : Operand)
  /-- STY, store Y (R206). -/
  | sty (o : Operand)
  -- Register transfer and stack (41_transfer_stack.md)
  /-- TAX, transfer A to X (R211). -/
  | tax
  /-- TAY, transfer A to Y (R212). -/
  | tay
  /-- TXA, transfer X to A (R213). -/
  | txa
  /-- TYA, transfer Y to A (R214). -/
  | tya
  /-- TSX, transfer SP to X (R215). -/
  | tsx
  /-- TXS, transfer X to SP (R216). -/
  | txs
  /-- PHA, push A (R217). -/
  | pha
  /-- PHP, push status (R218). -/
  | php
  /-- PLA, pull A (R219). -/
  | pla
  /-- PLP, pull status (R220). -/
  | plp
  -- Arithmetic (42_arithmetic.md)
  /-- ADC, add with carry (R226). -/
  | adc (o : Operand)
  /-- SBC, subtract with borrow (R227). -/
  | sbc (o : Operand)
  /-- CMP, compare with A (R228). -/
  | cmp (o : Operand)
  /-- CPX, compare with X (R229). -/
  | cpx (o : Operand)
  /-- CPY, compare with Y (R230). -/
  | cpy (o : Operand)
  /-- INC, increment memory (R231). -/
  | inc (o : Operand)
  /-- INX, increment X (R232). -/
  | inx
  /-- INY, increment Y (R233). -/
  | iny
  /-- DEC, decrement memory (R234). -/
  | dec (o : Operand)
  /-- DEX, decrement X (R235). -/
  | dex
  /-- DEY, decrement Y (R236). -/
  | dey
  -- Logic, bit test, shifts and rotates (43_logic_shift.md)
  /-- AND, bitwise and (R246). -/
  | and (o : Operand)
  /-- ORA, bitwise or (R247). -/
  | ora (o : Operand)
  /-- EOR, bitwise exclusive or (R248). -/
  | eor (o : Operand)
  /-- BIT, test bits (R249). -/
  | bit (o : Operand)
  /-- ASL, arithmetic shift left (R250). -/
  | asl (o : Operand)
  /-- LSR, logical shift right (R251). -/
  | lsr (o : Operand)
  /-- ROL, rotate left through carry (R252). -/
  | rol (o : Operand)
  /-- ROR, rotate right through carry (R253). -/
  | ror (o : Operand)
  -- Control transfer (44_control.md)
  /-- JMP, jump (R261). -/
  | jmp (o : Operand)
  /-- JSR, jump to subroutine (R262). -/
  | jsr (target : Word)
  /-- RTS, return from subroutine (R263). -/
  | rts
  /-- BCC, branch if carry clear (R265). -/
  | bcc (offset : Byte)
  /-- BCS, branch if carry set (R266). -/
  | bcs (offset : Byte)
  /-- BEQ, branch if zero set (R267). -/
  | beq (offset : Byte)
  /-- BNE, branch if zero clear (R268). -/
  | bne (offset : Byte)
  /-- BMI, branch if negative set (R269). -/
  | bmi (offset : Byte)
  /-- BPL, branch if negative clear (R270). -/
  | bpl (offset : Byte)
  /-- BVC, branch if overflow clear (R271). -/
  | bvc (offset : Byte)
  /-- BVS, branch if overflow set (R272). -/
  | bvs (offset : Byte)
  -- Flags and system (45_flags_system.md)
  /-- CLC, clear carry (R281). -/
  | clc
  /-- SEC, set carry (R282). -/
  | sec
  /-- CLI, clear interrupt disable (R283). -/
  | cli
  /-- SEI, set interrupt disable (R284). -/
  | sei
  /-- CLD, clear decimal (R285). -/
  | cld
  /-- SED, set decimal (R286). -/
  | sed
  /-- CLV, clear overflow (R287). -/
  | clv
  /-- BRK, force break (R288). -/
  | brk
  /-- RTI, return from interrupt (R289). -/
  | rti
  /-- NOP, no operation (R290). -/
  | nop
  -- The undefined opcode bytes (30_encoding.md R160)
  /-- A byte that is no opcode (R160). -/
  | undefinedOpcode (opcode : Byte)
  deriving DecidableEq, Repr

/-- The mnemonic and the operand of an instruction; nothing for an undefined opcode byte. -/
def Instr.parts : Instr → Option (Mnemonic × Operand)
  | .lda o => some (.lda, o)
  | .ldx o => some (.ldx, o)
  | .ldy o => some (.ldy, o)
  | .sta o => some (.sta, o)
  | .stx o => some (.stx, o)
  | .sty o => some (.sty, o)
  | .tax => some (.tax, .imp)
  | .tay => some (.tay, .imp)
  | .txa => some (.txa, .imp)
  | .tya => some (.tya, .imp)
  | .tsx => some (.tsx, .imp)
  | .txs => some (.txs, .imp)
  | .pha => some (.pha, .imp)
  | .php => some (.php, .imp)
  | .pla => some (.pla, .imp)
  | .plp => some (.plp, .imp)
  | .adc o => some (.adc, o)
  | .sbc o => some (.sbc, o)
  | .cmp o => some (.cmp, o)
  | .cpx o => some (.cpx, o)
  | .cpy o => some (.cpy, o)
  | .inc o => some (.inc, o)
  | .inx => some (.inx, .imp)
  | .iny => some (.iny, .imp)
  | .dec o => some (.dec, o)
  | .dex => some (.dex, .imp)
  | .dey => some (.dey, .imp)
  | .and o => some (.and, o)
  | .ora o => some (.ora, o)
  | .eor o => some (.eor, o)
  | .bit o => some (.bit, o)
  | .asl o => some (.asl, o)
  | .lsr o => some (.lsr, o)
  | .rol o => some (.rol, o)
  | .ror o => some (.ror, o)
  | .jmp o => some (.jmp, o)
  | .jsr target => some (.jsr, .abs target)
  | .rts => some (.rts, .imp)
  | .bcc offset => some (.bcc, .rel offset)
  | .bcs offset => some (.bcs, .rel offset)
  | .beq offset => some (.beq, .rel offset)
  | .bne offset => some (.bne, .rel offset)
  | .bmi offset => some (.bmi, .rel offset)
  | .bpl offset => some (.bpl, .rel offset)
  | .bvc offset => some (.bvc, .rel offset)
  | .bvs offset => some (.bvs, .rel offset)
  | .clc => some (.clc, .imp)
  | .sec => some (.sec, .imp)
  | .cli => some (.cli, .imp)
  | .sei => some (.sei, .imp)
  | .cld => some (.cld, .imp)
  | .sed => some (.sed, .imp)
  | .clv => some (.clv, .imp)
  | .brk => some (.brk, .imp)
  | .rti => some (.rti, .imp)
  | .nop => some (.nop, .imp)
  | .undefinedOpcode _ => none

/-- The instruction a mnemonic and an operand stand for; nothing where the mnemonic takes no such operand. -/
def Instr.ofParts : Mnemonic → Operand → Option Instr
  | .lda, o => some (.lda o)
  | .ldx, o => some (.ldx o)
  | .ldy, o => some (.ldy o)
  | .sta, o => some (.sta o)
  | .stx, o => some (.stx o)
  | .sty, o => some (.sty o)
  | .tax, .imp => some .tax
  | .tay, .imp => some .tay
  | .txa, .imp => some .txa
  | .tya, .imp => some .tya
  | .tsx, .imp => some .tsx
  | .txs, .imp => some .txs
  | .pha, .imp => some .pha
  | .php, .imp => some .php
  | .pla, .imp => some .pla
  | .plp, .imp => some .plp
  | .adc, o => some (.adc o)
  | .sbc, o => some (.sbc o)
  | .cmp, o => some (.cmp o)
  | .cpx, o => some (.cpx o)
  | .cpy, o => some (.cpy o)
  | .inc, o => some (.inc o)
  | .inx, .imp => some .inx
  | .iny, .imp => some .iny
  | .dec, o => some (.dec o)
  | .dex, .imp => some .dex
  | .dey, .imp => some .dey
  | .and, o => some (.and o)
  | .ora, o => some (.ora o)
  | .eor, o => some (.eor o)
  | .bit, o => some (.bit o)
  | .asl, o => some (.asl o)
  | .lsr, o => some (.lsr o)
  | .rol, o => some (.rol o)
  | .ror, o => some (.ror o)
  | .jmp, o => some (.jmp o)
  | .jsr, .abs target => some (.jsr target)
  | .rts, .imp => some .rts
  | .bcc, .rel offset => some (.bcc offset)
  | .bcs, .rel offset => some (.bcs offset)
  | .beq, .rel offset => some (.beq offset)
  | .bne, .rel offset => some (.bne offset)
  | .bmi, .rel offset => some (.bmi offset)
  | .bpl, .rel offset => some (.bpl offset)
  | .bvc, .rel offset => some (.bvc offset)
  | .bvs, .rel offset => some (.bvs offset)
  | .clc, .imp => some .clc
  | .sec, .imp => some .sec
  | .cli, .imp => some .cli
  | .sei, .imp => some .sei
  | .cld, .imp => some .cld
  | .sed, .imp => some .sed
  | .clv, .imp => some .clv
  | .brk, .imp => some .brk
  | .rti, .imp => some .rti
  | .nop, .imp => some .nop
  | _, _ => none

/-- The byte length of an instruction (R122). -/
def Instr.length (i : Instr) : Nat :=
  match i.parts with
  | some (_, o) => o.mode.length
  | none => 1

end Sys2Proof
end

