-- ==== Sys2Proof/Decode.lean ====
section
/-! DEFINITION. The Instruction Table (mnemonic and addressing mode to opcode and base cycle cost, 30_encoding.md R152), the
decoder of any byte sequence (R120 to R125, R160, R162) and after it the encoder. -/

namespace Sys2Proof

/-- An entry of the Instruction Table: `mode=opcode(cycles)` (R152). -/
structure Entry where
  /-- The addressing mode. -/
  mode : Mode
  /-- The opcode byte. -/
  opcode : Byte
  /-- `CYC[opcode]`, the base cycle cost (R150). -/
  cycles : Nat
  deriving DecidableEq, Repr

/-- The Instruction Table by mnemonic, as R152 prints it. -/
def Mnemonic.entries : Mnemonic → List Entry
  | .adc =>
    [⟨.imm, 0x69, 2⟩, ⟨.zp, 0x65, 3⟩, ⟨.zpx, 0x75, 4⟩, ⟨.abs, 0x6D, 4⟩,
     ⟨.abx, 0x7D, 4⟩, ⟨.aby, 0x79, 4⟩, ⟨.izx, 0x61, 6⟩, ⟨.izy, 0x71, 5⟩]
  | .and =>
    [⟨.imm, 0x29, 2⟩, ⟨.zp, 0x25, 3⟩, ⟨.zpx, 0x35, 4⟩, ⟨.abs, 0x2D, 4⟩,
     ⟨.abx, 0x3D, 4⟩, ⟨.aby, 0x39, 4⟩, ⟨.izx, 0x21, 6⟩, ⟨.izy, 0x31, 5⟩]
  | .asl => [⟨.acc, 0x0A, 2⟩, ⟨.zp, 0x06, 5⟩, ⟨.zpx, 0x16, 6⟩, ⟨.abs, 0x0E, 6⟩, ⟨.abx, 0x1E, 7⟩]
  | .bcc => [⟨.rel, 0x90, 2⟩]
  | .bcs => [⟨.rel, 0xB0, 2⟩]
  | .beq => [⟨.rel, 0xF0, 2⟩]
  | .bit => [⟨.zp, 0x24, 3⟩, ⟨.abs, 0x2C, 4⟩]
  | .bmi => [⟨.rel, 0x30, 2⟩]
  | .bne => [⟨.rel, 0xD0, 2⟩]
  | .bpl => [⟨.rel, 0x10, 2⟩]
  | .brk => [⟨.imp, 0x00, 7⟩]
  | .bvc => [⟨.rel, 0x50, 2⟩]
  | .bvs => [⟨.rel, 0x70, 2⟩]
  | .clc => [⟨.imp, 0x18, 2⟩]
  | .cld => [⟨.imp, 0xD8, 2⟩]
  | .cli => [⟨.imp, 0x58, 2⟩]
  | .clv => [⟨.imp, 0xB8, 2⟩]
  | .cmp =>
    [⟨.imm, 0xC9, 2⟩, ⟨.zp, 0xC5, 3⟩, ⟨.zpx, 0xD5, 4⟩, ⟨.abs, 0xCD, 4⟩,
     ⟨.abx, 0xDD, 4⟩, ⟨.aby, 0xD9, 4⟩, ⟨.izx, 0xC1, 6⟩, ⟨.izy, 0xD1, 5⟩]
  | .cpx => [⟨.imm, 0xE0, 2⟩, ⟨.zp, 0xE4, 3⟩, ⟨.abs, 0xEC, 4⟩]
  | .cpy => [⟨.imm, 0xC0, 2⟩, ⟨.zp, 0xC4, 3⟩, ⟨.abs, 0xCC, 4⟩]
  | .dec => [⟨.zp, 0xC6, 5⟩, ⟨.zpx, 0xD6, 6⟩, ⟨.abs, 0xCE, 6⟩, ⟨.abx, 0xDE, 7⟩]
  | .dex => [⟨.imp, 0xCA, 2⟩]
  | .dey => [⟨.imp, 0x88, 2⟩]
  | .eor =>
    [⟨.imm, 0x49, 2⟩, ⟨.zp, 0x45, 3⟩, ⟨.zpx, 0x55, 4⟩, ⟨.abs, 0x4D, 4⟩,
     ⟨.abx, 0x5D, 4⟩, ⟨.aby, 0x59, 4⟩, ⟨.izx, 0x41, 6⟩, ⟨.izy, 0x51, 5⟩]
  | .inc => [⟨.zp, 0xE6, 5⟩, ⟨.zpx, 0xF6, 6⟩, ⟨.abs, 0xEE, 6⟩, ⟨.abx, 0xFE, 7⟩]
  | .inx => [⟨.imp, 0xE8, 2⟩]
  | .iny => [⟨.imp, 0xC8, 2⟩]
  | .jmp => [⟨.abs, 0x4C, 3⟩, ⟨.ind, 0x6C, 5⟩]
  | .jsr => [⟨.abs, 0x20, 6⟩]
  | .lda =>
    [⟨.imm, 0xA9, 2⟩, ⟨.zp, 0xA5, 3⟩, ⟨.zpx, 0xB5, 4⟩, ⟨.abs, 0xAD, 4⟩,
     ⟨.abx, 0xBD, 4⟩, ⟨.aby, 0xB9, 4⟩, ⟨.izx, 0xA1, 6⟩, ⟨.izy, 0xB1, 5⟩]
  | .ldx => [⟨.imm, 0xA2, 2⟩, ⟨.zp, 0xA6, 3⟩, ⟨.zpy, 0xB6, 4⟩, ⟨.abs, 0xAE, 4⟩, ⟨.aby, 0xBE, 4⟩]
  | .ldy => [⟨.imm, 0xA0, 2⟩, ⟨.zp, 0xA4, 3⟩, ⟨.zpx, 0xB4, 4⟩, ⟨.abs, 0xAC, 4⟩, ⟨.abx, 0xBC, 4⟩]
  | .lsr => [⟨.acc, 0x4A, 2⟩, ⟨.zp, 0x46, 5⟩, ⟨.zpx, 0x56, 6⟩, ⟨.abs, 0x4E, 6⟩, ⟨.abx, 0x5E, 7⟩]
  | .nop => [⟨.imp, 0xEA, 2⟩]
  | .ora =>
    [⟨.imm, 0x09, 2⟩, ⟨.zp, 0x05, 3⟩, ⟨.zpx, 0x15, 4⟩, ⟨.abs, 0x0D, 4⟩,
     ⟨.abx, 0x1D, 4⟩, ⟨.aby, 0x19, 4⟩, ⟨.izx, 0x01, 6⟩, ⟨.izy, 0x11, 5⟩]
  | .pha => [⟨.imp, 0x48, 3⟩]
  | .php => [⟨.imp, 0x08, 3⟩]
  | .pla => [⟨.imp, 0x68, 4⟩]
  | .plp => [⟨.imp, 0x28, 4⟩]
  | .rol => [⟨.acc, 0x2A, 2⟩, ⟨.zp, 0x26, 5⟩, ⟨.zpx, 0x36, 6⟩, ⟨.abs, 0x2E, 6⟩, ⟨.abx, 0x3E, 7⟩]
  | .ror => [⟨.acc, 0x6A, 2⟩, ⟨.zp, 0x66, 5⟩, ⟨.zpx, 0x76, 6⟩, ⟨.abs, 0x6E, 6⟩, ⟨.abx, 0x7E, 7⟩]
  | .rti => [⟨.imp, 0x40, 6⟩]
  | .rts => [⟨.imp, 0x60, 6⟩]
  | .sbc =>
    [⟨.imm, 0xE9, 2⟩, ⟨.zp, 0xE5, 3⟩, ⟨.zpx, 0xF5, 4⟩, ⟨.abs, 0xED, 4⟩,
     ⟨.abx, 0xFD, 4⟩, ⟨.aby, 0xF9, 4⟩, ⟨.izx, 0xE1, 6⟩, ⟨.izy, 0xF1, 5⟩]
  | .sec => [⟨.imp, 0x38, 2⟩]
  | .sed => [⟨.imp, 0xF8, 2⟩]
  | .sei => [⟨.imp, 0x78, 2⟩]
  | .sta =>
    [⟨.zp, 0x85, 3⟩, ⟨.zpx, 0x95, 4⟩, ⟨.abs, 0x8D, 4⟩, ⟨.abx, 0x9D, 5⟩,
     ⟨.aby, 0x99, 5⟩, ⟨.izx, 0x81, 6⟩, ⟨.izy, 0x91, 6⟩]
  | .stx => [⟨.zp, 0x86, 3⟩, ⟨.zpy, 0x96, 4⟩, ⟨.abs, 0x8E, 4⟩]
  | .sty => [⟨.zp, 0x84, 3⟩, ⟨.zpx, 0x94, 4⟩, ⟨.abs, 0x8C, 4⟩]
  | .tax => [⟨.imp, 0xAA, 2⟩]
  | .tay => [⟨.imp, 0xA8, 2⟩]
  | .tsx => [⟨.imp, 0xBA, 2⟩]
  | .txa => [⟨.imp, 0x8A, 2⟩]
  | .txs => [⟨.imp, 0x9A, 2⟩]
  | .tya => [⟨.imp, 0x98, 2⟩]

/-- The entry of a mnemonic at an addressing mode, if the table has one. -/
def tableEntry (mn : Mnemonic) (mode : Mode) : Option Entry := mn.entries.find? fun e => e.mode == mode

/-- A row of spec/opcode_table.json. -/
structure Row where
  /-- The opcode byte (`match`; the mask is 0xFF, R120). -/
  opcode : Byte
  /-- The mnemonic. -/
  mn : Mnemonic
  /-- The addressing mode. -/
  mode : Mode
  deriving DecidableEq, Repr

/-- The 151 defined rows. -/
def opcodeTable : List Row := Mnemonic.all.flatMap fun mn => mn.entries.map fun e => ⟨e.opcode, mn, e.mode⟩

/-- The row of an opcode byte, if it is a defined one (R124). -/
def lookupOpcode (op : Byte) : Option Row := opcodeTable.find? fun r => r.opcode == op

/-- The length of the instruction at a byte: the opcode alone decides it (R122, R162); an undefined byte is read alone. -/
def opcodeLength (op : Byte) : Nat :=
  match lookupOpcode op with
  | some r => r.mode.length
  | none => 1

/-- The operand of mode `mode` with the operand bytes `b1` and `b2`; a 16-bit operand is `b2` then `b1` (R121, R125). -/
def Operand.ofBytes (mode : Mode) (b1 b2 : Byte) : Operand :=
  match mode with
  | .imp => .imp
  | .acc => .acc
  | .imm => .imm b1
  | .zp => .zp b1
  | .zpx => .zpx b1
  | .zpy => .zpy b1
  | .rel => .rel b1
  | .abs => .abs (Machine.joinBytes b2 b1)
  | .abx => .abx (Machine.joinBytes b2 b1)
  | .aby => .aby (Machine.joinBytes b2 b1)
  | .ind => .ind (Machine.joinBytes b2 b1)
  | .izx => .izx b1
  | .izy => .izy b1

/-- Why a byte sequence is no instruction. -/
inductive DecodeError where
  /-- There is no byte. -/
  | noBytes
  /-- The bytes end before the operand bytes that the opcode calls for. -/
  | truncated (opcode : Byte)
  /-- The table pairs the opcode with an operand form its mnemonic does not take (for no byte of this table). -/
  | malformedTable (opcode : Byte)
  deriving DecidableEq, Repr

/-- Decode the instruction at the head of a byte sequence and give the bytes after it (R124, R125, R162). A byte without
a table entry is the instruction `undefinedOpcode`, whose meaning is the fault of R124. -/
def decode (bytes : List Byte) : Except DecodeError (Instr × List Byte) :=
  match bytes with
  | [] => .error .noBytes
  | op :: rest =>
    match lookupOpcode op with
    | none => .ok (.undefinedOpcode op, rest)
    | some r =>
      let found (b1 b2 : Byte) (rest : List Byte) : Except DecodeError (Instr × List Byte) :=
        match Instr.ofParts r.mn (Operand.ofBytes r.mode b1 b2) with
        | some i => .ok (i, rest)
        | none => .error (.malformedTable op)
      match r.mode.length, rest with
      | 1, rest => found 0 0 rest
      | 2, b1 :: rest => found b1 0 rest
      | 3, b1 :: b2 :: rest => found b1 b2 rest
      | _, _ => .error (.truncated op)

/-- The operand bytes of an operand, low byte first (R121). -/
def Operand.bytes : Operand → List Byte
  | .imp => []
  | .acc => []
  | .imm b => [b]
  | .zp b => [b]
  | .zpx b => [b]
  | .zpy b => [b]
  | .rel b => [b]
  | .izx b => [b]
  | .izy b => [b]
  | .abs w => [Machine.loByte w, Machine.hiByte w]
  | .abx w => [Machine.loByte w, Machine.hiByte w]
  | .aby w => [Machine.loByte w, Machine.hiByte w]
  | .ind w => [Machine.loByte w, Machine.hiByte w]

/-- The bytes of a well-formed instruction; no bytes for a term the table has no entry for. -/
def encode (i : Instr) : List Byte :=
  match i with
  | .undefinedOpcode op => [op]
  | i =>
    match i.parts with
    | none => []
    | some (mn, o) =>
      match tableEntry mn o.mode with
      | none => []
      | some e => e.opcode :: o.bytes

/-- The three bytes of a number whose bits `spec/opcode_table.json` numbers from the first byte up, keeping the `nbits`
low bits: the longest instruction has three bytes (R120). -/
def tableWordBytes (nbits w : Nat) : Byte × Byte × Byte :=
  let w := w % 2 ^ nbits
  (BitVec.ofNat 8 w, BitVec.ofNat 8 (w / 2 ^ 8), BitVec.ofNat 8 (w / 2 ^ 16))

/-- The instruction the decoder reads from an instruction whose bits are `w`, numbered as spec/opcode_table.json
numbers them; every bit above `nbits` is 0. -/
def decodeTableWord (nbits w : Nat) : Option Instr :=
  let (b0, b1, b2) := tableWordBytes nbits w
  match decode [b0, b1, b2] with
  | .ok (i, _) => some i
  | .error _ => none

end Sys2Proof
end

