-- ==== Sys2Proof/Config.lean ====
section
/-! DEFINITION. What is fixed for the machine and changed by no step: the implementation parameters of 00_scope.md R7 as the
fields of one record, so that a claim can quantify over them, with the values the spec takes; and the FREE VALUES,
constants with no body about which nothing can be proved (`draw` values, R16; the OPEN contents of the memories after
power-on, R52). -/

namespace Sys2Proof

/-- `HOLE_POLICY` (R7, R78, 93_implementation_defined.md U10): what lies at 0x4000 to 0x4013 and 0x4015 to 0x7FFF. -/
inductive HolePolicy where
  /-- Nothing: an access is the fault `AddressOutOfRange`. -/
  | fault
  /-- A plain byte array. -/
  | ram
  deriving DecidableEq, Repr

/-- The parameters of R7 that the cartridge record does not carry and that are no input of the host (`IRQ_LINE`). -/
structure Params where
  /-- `VEC_NMI`, the address of the low byte; the high byte is at the next address (R79). -/
  vecNmi : Word
  /-- `VEC_RESET` (R79). -/
  vecReset : Word
  /-- `VEC_IRQ`, shared by IRQ and BRK (R79). -/
  vecIrq : Word
  /-- `DECIMAL_ENABLED` (R240, U12): "no decimal rule is given, so true is `refuse`". -/
  decimalEnabled : Bool
  /-- `JMP_IND_PAGE_WRAP` (R136, U13). -/
  jmpIndPageWrap : Bool
  /-- `B_ON_HW_INTERRUPT`: bit 4 of the status byte that IRQ and NMI push (R434, R436, U15). -/
  bOnHwInterrupt : Bool
  /-- `PPU_PER_CPU`: PPU dots per CPU cycle (R401, U3). -/
  ppuPerCpu : Nat
  /-- `LINES_PER_FRAME` (R341). -/
  linesPerFrame : Nat
  /-- `DOTS_PER_LINE` (R341). -/
  dotsPerLine : Nat
  /-- `PRE_RENDER_LINE` (R341). -/
  preRenderLine : Nat
  /-- `VBL_SET`: scanline and dot (R343). -/
  vblSet : Nat × Nat
  /-- `VBL_CLEAR`: scanline and dot (R344). -/
  vblClear : Nat × Nat
  /-- `ODD_SKIP_REQUIRES_RENDERING` (R342, U16). -/
  oddSkipRequiresRendering : Bool
  /-- `DMA_BASE_CYCLES`, one more on odd parity (R411). -/
  dmaBaseCycles : Nat
  /-- `INT_CYCLES`: the cost of an NMI or IRQ entry (R150). -/
  intCycles : Nat
  /-- `RESET_CYCLES` (R471). -/
  resetCycles : Nat
  /-- `CYC`: the base cycle cost of each opcode (R150). -/
  cyc : List (Byte × Nat)
  /-- `HOLE_POLICY` (R78, U10). -/
  holePolicy : HolePolicy
  deriving DecidableEq, Repr

/-- `CYC[op]` (R150); 0 for an opcode the table has no entry for. -/
def Params.cycles (k : Params) (op : Byte) : Nat := (k.cyc.lookup op).getD 0

/-- The values this spec takes (R7); `CYC` is the cycles column of R152. -/
def Params.spec : Params :=
  { vecNmi := 0xFFFA, vecReset := 0xFFFC, vecIrq := 0xFFFE
    decimalEnabled := false, jmpIndPageWrap := true, bOnHwInterrupt := true
    ppuPerCpu := 3, linesPerFrame := 262, dotsPerLine := 341, preRenderLine := 261
    vblSet := (241, 1), vblClear := (261, 1), oddSkipRequiresRendering := false
    dmaBaseCycles := 513, intCycles := 7, resetCycles := 7
    cyc := Mnemonic.all.flatMap fun mn => mn.entries.map fun e => (e.opcode, e.cycles)
    holePolicy := .fault }

/-- A vector whose two bytes lie in the PRG window (R79). -/
def isVector (a : Word) : Bool := decide (0x8000 ≤ a) && decide (a ≠ 0xFFFF)

/-- The parameters the machine admits: a positive `PPU_PER_CPU` (R401, U9), vectors in the PRG window (R79), a frame that
has a dot (log entry 14). -/
def Params.admitted (k : Params) : Bool :=
  decide (0 < k.ppuPerCpu) && (isVector k.vecNmi && isVector k.vecReset && isVector k.vecIrq) &&
    (decide (0 < k.linesPerFrame) && decide (0 < k.dotsPerLine))

namespace Config

/-- `draw(width)` (R16): the k-th free value the machine draws, "an n-bit value about which the spec promises
nothing". No body: nothing can be proved of a particular draw. FREE VALUE, log entry 1. -/
opaque draw (width : Nat) (k : Nat) : BitVec width

/-- `RAM_INIT` (R7, R52): what a byte of `ram` that nothing has written reads as. OPEN; no body. FREE VALUE, log entry 2. -/
opaque ramInit : Nat → Byte

/-- `VRAM_INIT` (R7, R52). OPEN; no body. FREE VALUE, log entry 2. -/
opaque vramInit : Nat → Byte

/-- `OAM_INIT` (R7, R52). OPEN; no body. FREE VALUE, log entry 2. -/
opaque oamInit : Nat → Byte

/-- `PAL_INIT` (R7, R52). OPEN; no body. FREE VALUE, log entry 2. -/
opaque palInit : Nat → BitVec 6

/-- What a byte of the hole's array that nothing has written reads as, with `HOLE_POLICY = ram` (R78). No body. FREE VALUE,
log entry 24. -/
opaque holeInit : Nat → Byte

end Config

end Sys2Proof
end

