-- ==== Sys2Proof/Machine/Cells.lean ====
section
/-! DEFINITION. Sparse byte arrays as plain data: a list of (index, value) pairs with strictly rising indexes. Every memory
of the machine (10_state.md R52) is one of these. An index the list does not hold has no value of its own:
what reading it gives is said where the array is read (Cartridge.lean, Ops.lean). -/

namespace Sys2Proof.Machine

/-- A sparse array of `w`-bit cells; with `w = 8` its entries are `Host.Cell`. -/
abbrev Cells (w : Nat) := List (Nat × BitVec w)

/-- The value listed at index `a`, if any. -/
def Cells.get {w : Nat} : Cells w → Nat → Option (BitVec w)
  | [], _ => none
  | (k, v) :: rest, a => if k = a then some v else Cells.get rest a

/-- The array with `v` at index `a`: the entry is replaced or inserted at its place in the rising order. -/
def Cells.put {w : Nat} : Cells w → Nat → BitVec w → Cells w
  | [], a, v => [(a, v)]
  | (k, u) :: rest, a, v =>
    if a < k then (a, v) :: (k, u) :: rest
    else if a = k then (a, v) :: rest
    else (k, u) :: Cells.put rest a v

/-- The array with nothing listed at index `a`. -/
def Cells.drop {w : Nat} : Cells w → Nat → Cells w
  | [], _ => []
  | (k, u) :: rest, a => if k = a then rest else (k, u) :: Cells.drop rest a

/-- A write to an array whose unlisted cells read as zero: writing zero removes the entry. -/
def Cells.putZeroFill {w : Nat} (m : Cells w) (a : Nat) (v : BitVec w) : Cells w :=
  if v = 0#w then Cells.drop m a else Cells.put m a v

/-- Every index of the list is above `lo`, and the indexes rise strictly. -/
def Cells.risingFrom {w : Nat} : Nat → Cells w → Bool
  | _, [] => true
  | lo, (k, _) :: rest => decide (lo ≤ k) && Cells.risingFrom (k + 1) rest

/-- Every index of the list is below `size`. -/
def Cells.below {w : Nat} (size : Nat) (m : Cells w) : Bool := m.all fun c => decide (c.1 < size)

/-- The canonical form of an array of `size` cells: indexes rise strictly and lie below `size`. -/
def Cells.wf {w : Nat} (size : Nat) (m : Cells w) : Bool := Cells.risingFrom 0 m && Cells.below size m

/-- The canonical form of an array whose unlisted cells read as zero: no listed cell is zero. -/
def Cells.noZero {w : Nat} (m : Cells w) : Bool := m.all fun c => decide (c.2 ≠ 0#w)

end Sys2Proof.Machine
end

