-- ==== Sys2Proof/Machine/Cartridge.lean ====
section
/-! DEFINITION. The cartridge record `(prgRom, chrRom, mapperId, mirroring)` (00_scope.md R9) and the mapper's pure address
translation (20_memory.md R77, R92, R98). -/

namespace Sys2Proof.Machine

/-- `MIRRORING` (R7, R93). -/
inductive Mirroring where
  | horizontal
  | vertical
  deriving DecidableEq, Repr

/-- The cartridge record of R9: the two images, their sizes, the mapper id and the nametable mirroring. An image byte
that its list does not hold is 0x00 (log entry 3). -/
structure Cartridge where
  /-- `mapperId`. -/
  mapperId : Nat
  /-- `MIRRORING`. -/
  mirroring : Mirroring
  /-- `PRG_SIZE`, the length of `prgRom`. -/
  prgSize : Nat
  /-- `CHR_SIZE`, the length of `chrRom`. -/
  chrSize : Nat
  /-- `prgRom`. -/
  prg : List Host.Cell
  /-- `chrRom`. -/
  chr : List Host.Cell
  deriving DecidableEq, Repr

/-- The configurations the machine admits (R9): mapper 0, 16 or 32 KiB of PRG, 8 KiB of CHR. -/
def Cartridge.admitted (c : Cartridge) : Bool :=
  c.mapperId == 0 && (c.prgSize == 0x4000 || c.prgSize == 0x8000) && c.chrSize == 0x2000

/-- `MapCpu(a) = (a - 0x8000) mod PRG_SIZE` (R77). -/
def Cartridge.mapCpu (c : Cartridge) (a : Word) : Nat := (a.toNat - 0x8000) % c.prgSize

/-- `MapPpu(a) = a` (R92). -/
def Cartridge.mapPpu (_ : Cartridge) (a : PpuAddr) : Nat := a.toNat

/-- `prg[i]`. -/
def Cartridge.prgByte (c : Cartridge) (i : Nat) : Byte := (Cells.get c.prg i).getD 0

/-- `chr[i]`. -/
def Cartridge.chrByte (c : Cartridge) (i : Nat) : Byte := (Cells.get c.chr i).getD 0

/-- `prg[MapCpu(a)]` (R72, R77): the byte at a CPU address of the PRG window. -/
def Cartridge.cpuByte (c : Cartridge) (a : Word) : Byte := c.prgByte (c.mapCpu a)

/-- The word at `a` and `a + 1` of the PRG window, low byte first: how a vector is read (R12, R79). -/
def Cartridge.vector (c : Cartridge) (a : Word) : Word := c.cpuByte (a + 1) ++ c.cpuByte a

/-- The canonical form of both images. -/
def Cartridge.wf (c : Cartridge) : Bool :=
  Cells.wf c.prgSize c.prg && Cells.noZero c.prg && (Cells.wf c.chrSize c.chr && Cells.noZero c.chr)

/-- A 32 KiB, 8 KiB cartridge of the mapper in scope whose images list nothing: every byte is 0x00
(log entry 4). The machine's reset state holds it; a program comes with another cartridge. -/
def Cartridge.blank : Cartridge :=
  { mapperId := 0, mirroring := .horizontal, prgSize := 0x8000, chrSize := 0x2000, prg := [], chr := [] }

end Sys2Proof.Machine
end

