-- ==== Sys2Proof/Machine/State.lean ====
section
/-! DEFINITION. The state of the whole machine (10_state.md): CPU, PPU, memories, cartridge, orchestrator; the faults and
refusals a step can end in; and the state after reset (10_state.md R57, 70_reset_and_hazards.md R471). -/

namespace Sys2Proof.Machine

/-- The direction of a bus access, part of a fault report (R432). -/
inductive Access where
  | read
  | write
  deriving DecidableEq, Repr

/-- The three fatal faults (00_scope.md R15), each with the report R432 asks a model to attach. A fault discards every
state change of the step (R444). -/
inductive Fault where
  /-- `ConfigurationError` (R443). Raised by the meaning of an undefined opcode byte, which it reports with its
  address, and by a meaning whose addressing mode has no table entry (no byte: such a term is never decoded).
  Safe: the spec stops there. -/
  | configurationError (opcode : Option Byte) (pc : Word)
  /-- `AddressOutOfRange` (R445). Raised by `memRead` and `memWrite` on the hole 0x4000 to 0x4013, 0x4015 to 0x7FFF
  (R78) under `HOLE_POLICY = fault`: fetch, operand, pointer, data or DMA source. Safe: the spec stops there. -/
  | addressOutOfRange (address : Word) (direction : Access) (pc : Word)
  /-- `UnsupportedMapper` (R446). Raised at load by a cartridge that is not admitted: the session starts halted and
  every step answers this fault. Safe: the spec stops there. -/
  | unsupportedMapper (mapperId : Nat)
  deriving DecidableEq, Repr

/-- What a step gives no meaning to. -/
inductive Refusal where
  /-- An instruction that has no meaning yet (no arm of `exec` answers it). Safe. -/
  | notModelled (mnemonic : String)
  /-- An access to the data port (port 7), or a write to the OAM-data port (port 4), while the PPU is rendering:
  "the model refuses it" (R310, R312, R313, R317). Raised by `portRead` and `portWrite`. Safe. -/
  | portAccessWhileRendering (port : BitVec 3)
  /-- An OAM DMA started while the PPU is rendering: "the model refuses it" (R413). Raised by `oamDma`. Safe. -/
  | dmaWhileRendering
  /-- ADC or SBC with D set where the parameter `DECIMAL_ENABLED` is true: "no decimal rule is given, so true is `refuse`"
  (R240, 93_implementation_defined.md U12). Raised by `execAdc` and `execSbc`; never with the spec's parameters. Safe. -/
  | decimalArithmetic
  /-- Parameters that are not admitted (U9: "`refuse`: configuration not admitted by this spec"; R79; log entry 14). Raised
  by `runTick` and `toBoundary`; never with the spec's parameters. Safe. -/
  | parametersNotAdmitted
  deriving DecidableEq, Repr

/-- `sys.halted` (R39): `running` or `faulted(kind)`, the kind with its report. -/
inductive Halted where
  | running
  | faulted (fault : Fault)
  deriving DecidableEq, Repr

/-- The seven flags of the CPU (R26). -/
structure Flags where
  /-- Negative (R34). -/
  n : Bool
  /-- Overflow (R33). -/
  v : Bool
  /-- Break: stored, written by nothing after reset (R32). -/
  b : Bool
  /-- Decimal: stored, no effect on arithmetic (R31, R240). -/
  d : Bool
  /-- Interrupt disable (R30). -/
  i : Bool
  /-- Zero (R29). -/
  z : Bool
  /-- Carry (R28). -/
  c : Bool
  deriving DecidableEq, Repr

/-- The CPU (10_state.md sections 1 to 4). -/
structure Cpu where
  /-- Accumulator (R21). -/
  a : Byte
  /-- Index register X (R22). -/
  x : Byte
  /-- Index register Y (R23). -/
  y : Byte
  /-- Stack pointer: the next free byte is at `0x0100 | SP` (R24). -/
  sp : Byte
  /-- Program counter: between CPU steps the address of the next opcode byte (R25). -/
  pc : Word
  /-- The status flags (R26). -/
  p : Flags
  /-- `cpu.nmi_pending` (R36). -/
  nmiPending : Bool
  /-- `cpu.stall`: CPU cycles still to elapse before the next CPU step (R37). -/
  stall : Nat
  /-- `cpu.cyc`: CPU cycles since reset (R38). -/
  cyc : Nat
  deriving DecidableEq, Repr

/-- An OAM entry (R53): also an entry of secondary OAM (R50). -/
structure Sprite where
  /-- Byte 0: the scanline of the top row, minus 1. -/
  y : Byte
  /-- Byte 1: the tile index. -/
  tile : Byte
  /-- Byte 2: palette number (1:0), priority (5), horizontal flip (6), vertical flip (7). -/
  attr : Byte
  /-- Byte 3: the column of the left edge. -/
  x : Byte
  deriving DecidableEq, Repr

/-- A sprite to draw on the current scanline, an entry of `ppu.line` (R50). -/
structure LineSprite where
  /-- The row of plane 0, already flipped horizontally. -/
  lo : Byte
  /-- The row of plane 1, already flipped horizontally. -/
  hi : Byte
  /-- The attribute byte. -/
  attr : Byte
  /-- The column of the left edge. -/
  xpos : Byte
  deriving DecidableEq, Repr

/-- The output event `pixel(x, y, colour, emphasis)` (R372). -/
structure Pixel where
  /-- Column, 0 to 255. -/
  x : Nat
  /-- Row, 0 to 239. -/
  y : Nat
  /-- The 6-bit colour number. -/
  colour : BitVec 6
  /-- The emphasis bits, `ppu.mask[7:5]`. -/
  emphasis : BitVec 3
  deriving DecidableEq, Repr

/-- The PPU (10_state.md section 5). -/
structure Ppu where
  /-- `ppu.ctrl` (R41). -/
  ctrl : Byte
  /-- `ppu.mask` (R42). -/
  mask : Byte
  /-- `ppu.vblank` (R43). -/
  vblank : Bool
  /-- `ppu.s0hit` (R43). -/
  s0hit : Bool
  /-- `ppu.overflow` (R43). -/
  overflow : Bool
  /-- `ppu.oamaddr` (R44). -/
  oamaddr : Byte
  /-- `ppu.v` (R45). -/
  v : Scroll
  /-- `ppu.t` (R45). -/
  t : Scroll
  /-- `ppu.x` (R46). -/
  x : BitVec 3
  /-- `ppu.w` (R46). -/
  w : Bool
  /-- `ppu.readbuf` (R47). -/
  readbuf : Byte
  /-- `ppu.scanline`, 0 to 261 (R48). -/
  scanline : Nat
  /-- `ppu.dot`, 0 to 340 (R48). -/
  dot : Nat
  /-- `ppu.odd` (R48). -/
  odd : Bool
  /-- `ppu.nt_byte` (R49). -/
  ntByte : Byte
  /-- `ppu.at_bits` (R49). -/
  atBits : BitVec 2
  /-- `ppu.pt_lo` (R49). -/
  ptLo : Byte
  /-- `ppu.pt_hi` (R49). -/
  ptHi : Byte
  /-- `ppu.bg_lo` (R49). -/
  bgLo : BitVec 16
  /-- `ppu.bg_hi` (R49). -/
  bgHi : BitVec 16
  /-- `ppu.at_lo` (R49). -/
  atLo : BitVec 16
  /-- `ppu.at_hi` (R49). -/
  atHi : BitVec 16
  /-- `ppu.sec`, secondary OAM (R50). -/
  sec : Vector Sprite 8
  /-- `ppu.sec_count`, 0 to 8 (R50). -/
  secCount : Nat
  /-- `ppu.sec_has0` (R50). -/
  secHas0 : Bool
  /-- `ppu.line` (R50). -/
  line : Vector LineSprite 8
  /-- `ppu.line_count`, 0 to 8 (R50). -/
  lineCount : Nat
  /-- `ppu.line_has0` (R50). -/
  lineHas0 : Bool
  /-- `ppu.nmi_line` (R51). -/
  nmiLine : Bool
  /-- MODEL'S OWN: the pixel event the last dot emitted, the machine's output (R56, R372; log entry 5). -/
  pixel : Option Pixel
  deriving DecidableEq, Repr

/-- The writable arrays (R52). A cell its list does not hold has been written by nothing since power-on. -/
structure Memory where
  /-- `ram`, 2048 bytes. -/
  ram : List Host.Cell
  /-- `vram`, 2048 bytes. -/
  vram : List Host.Cell
  /-- `oam`, 256 bytes. -/
  oam : List Host.Cell
  /-- `pal`, 32 cells of 6 bits. -/
  pal : List (Nat × BitVec 6)
  /-- The array behind the hole, 0x4000 to 0x7FFF, which `HOLE_POLICY = ram` exposes (R78). -/
  hole : List Host.Cell
  deriving DecidableEq, Repr

/-- The state of the machine (R400: "the product of the state in 10_state.md"). -/
structure State where
  /-- The CPU. -/
  cpu : Cpu
  /-- The PPU. -/
  ppu : Ppu
  /-- The writable arrays. -/
  mem : Memory
  /-- The cartridge record: no step writes it (R9, R56). -/
  cart : Cartridge
  /-- The implementation parameters: no step writes them (R7). -/
  params : Params
  /-- `sys.halted` (R39). -/
  halted : Halted
  /-- `sys.master` (R54). -/
  master : Nat
  /-- The level of the input `IRQ_LINE` (R40): the host's to set, written by no step. -/
  irqLine : Bool
  /-- MODEL'S OWN: how many free values the machine has drawn, the index of the next `draw` (R16; log entry 1). -/
  draws : Nat
  deriving DecidableEq, Repr

/-- The flags after reset: I set, every other clear (R35, R57). -/
def Flags.reset : Flags :=
  { n := false, v := false, b := false, d := false, i := true, z := false, c := false }

/-- The CPU after reset with the reset vector `pc` and `stall` cycles of reset (R57). -/
def Cpu.reset (pc : Word) (stall : Nat) : Cpu :=
  { a := 0, x := 0, y := 0, sp := 0xFD, pc := pc, p := Flags.reset, nmiPending := false, stall := stall, cyc := 0 }

/-- The PPU after reset (R57): everything zero, every byte of `sec` and `line` 0xFF. -/
def Ppu.reset : Ppu :=
  { ctrl := 0, mask := 0, vblank := false, s0hit := false, overflow := false, oamaddr := 0, v := 0, t := 0, x := 0,
    w := false, readbuf := 0, scanline := 0, dot := 0, odd := false, ntByte := 0, atBits := 0, ptLo := 0, ptHi := 0,
    bgLo := 0, bgHi := 0, atLo := 0, atHi := 0,
    sec := Vector.replicate 8 { y := 0xFF, tile := 0xFF, attr := 0xFF, x := 0xFF }, secCount := 0, secHas0 := false,
    line := Vector.replicate 8 { lo := 0xFF, hi := 0xFF, attr := 0xFF, xpos := 0xFF }, lineCount := 0,
    lineHas0 := false, nmiLine := false, pixel := none }

/-- Every writable array with nothing written (R52: its contents after power-on are OPEN). -/
def Memory.blank : Memory := { ram := [], vram := [], oam := [], pal := [], hole := [] }

/-- Power-on with parameters and a cartridge (R470, R471): the arrays take their OPEN contents, the rest its reset value, PC
the reset vector; a cartridge that is not admitted starts the session halted (R446). -/
def State.powerOn (k : Params) (c : Cartridge) : State :=
  { cpu := Cpu.reset (c.vector k.vecReset) k.resetCycles, ppu := Ppu.reset, mem := Memory.blank, cart := c, params := k,
    halted := if c.admitted then .running else .faulted (.unsupportedMapper c.mapperId),
    master := 0, irqLine := false, draws := 0 }

/-- The machine right after reset (R57, R471), with the spec's parameters (R7) and the blank cartridge (log entry 4). -/
def State.reset : State := State.powerOn Params.spec Cartridge.blank

end Sys2Proof.Machine
end

