-- ==== Sys2Proof/Machine/Flags.lean ====
section
/-! DEFINITION. Every flag computation of the spec: the status byte (10_state.md R27), SetZN (00_scope.md R14), the binary
ADC and SBC (42_arithmetic.md R226, R227), the compares (R228 to R230), BIT (43_logic_shift.md R249), the shifts and
rotates (R250 to R253) and the branch conditions (44_control.md R265 to R272). -/

namespace Sys2Proof.Machine

/-- One bit as a one-bit vector. -/
def bit (b : Bool) : BitVec 1 := BitVec.ofBool b

/-- `pack(P)` (R27): N V 1 B D I Z C from bit 7 to bit 0. -/
def Flags.pack (p : Flags) : Byte :=
  bit p.n ++ bit p.v ++ bit true ++ bit p.b ++ bit p.d ++ bit p.i ++ bit p.z ++ bit p.c

/-- `unpack(b)` (R27): N, V, D, I, Z, C from bits 7, 6, 3, 2, 1, 0; bits 5 and 4 are ignored, B stays. -/
def Flags.unpack (b : Byte) (p : Flags) : Flags :=
  { p with n := b.getLsbD 7, v := b.getLsbD 6, d := b.getLsbD 3, i := b.getLsbD 2, z := b.getLsbD 1, c := b.getLsbD 0 }

/-- The status byte as PHP and BRK push it: `pack(P) | 0x10` (R218, R288). -/
def Flags.pushed (p : Flags) : Byte := p.pack ||| 0x10

/-- The status byte as NMI and IRQ push it: bit 4 is `B_ON_HW_INTERRUPT` (R434, R436). -/
def Flags.pushedByHardware (p : Flags) (k : Params) : Byte :=
  if k.bOnHwInterrupt then p.pack ||| 0x10 else p.pack &&& 0xEF

/-- `SetZN(v)` (R14). -/
def Flags.setZN (v : Byte) (p : Flags) : Flags := { p with z := v == 0, n := v.getLsbD 7 }

/-- The result of `a + m + c` on 8 bits, its carry and its overflow (R226). -/
structure AluResult where
  /-- The 8-bit result `r`. -/
  r : Byte
  /-- The new `P.C`. -/
  c : Bool
  /-- The new `P.V`. -/
  v : Bool
  deriving DecidableEq, Repr

/-- ADC's arithmetic (R226); D is not read (R240). -/
def addWithCarry (a m : Byte) (c : Bool) : AluResult :=
  let sum := a.toNat + m.toNat + c.toNat
  let r := BitVec.ofNat 8 sum
  { r := r, c := decide (0xFF < sum), v := (~~~(a ^^^ m) &&& (a ^^^ r) &&& 0x80#8) != 0 }

/-- SBC's arithmetic (R227): C = 1 means no borrow; D is not read (R240). -/
def subWithBorrow (a m : Byte) (c : Bool) : AluResult :=
  let n := m ^^^ 0xFF
  let sum := a.toNat + n.toNat + c.toNat
  let r := BitVec.ofNat 8 sum
  { r := r, c := decide (0xFF < sum), v := ((a ^^^ m) &&& (a ^^^ r) &&& 0x80#8) != 0 }

/-- The flags after ADC or SBC (R226, R227): C, V from the sum, Z and N from the result. -/
def Flags.afterAlu (o : AluResult) (p : Flags) : Flags := Flags.setZN o.r { p with c := o.c, v := o.v }

/-- The flags after a compare of register value `r` with `m` (R228 to R230): the incoming carry is not used, V stays. -/
def Flags.afterCompare (r m : Byte) (p : Flags) : Flags :=
  { p with c := decide (m.toNat ≤ r.toNat), z := r == m, n := (r - m).getLsbD 7 }

/-- The flags after BIT (R249): Z from `A & m`, V and N from bits 6 and 7 of `m`. -/
def Flags.afterBit (a m : Byte) (p : Flags) : Flags :=
  { p with z := (a &&& m) == 0, v := m.getLsbD 6, n := m.getLsbD 7 }

/-- A shift or rotate: the result and the bit shifted out. -/
structure ShiftResult where
  /-- The 8-bit result `r`. -/
  r : Byte
  /-- The new `P.C`. -/
  c : Bool
  deriving DecidableEq, Repr

/-- ASL (R250). -/
def shiftLeft (m : Byte) : ShiftResult := { r := m <<< 1, c := m.getLsbD 7 }

/-- LSR (R251). -/
def shiftRight (m : Byte) : ShiftResult := { r := m >>> 1, c := m.getLsbD 0 }

/-- ROL (R252): the old carry enters bit 0. -/
def rotateLeft (c : Bool) (m : Byte) : ShiftResult :=
  { r := (m <<< 1) ||| (bit c).setWidth 8, c := m.getLsbD 7 }

/-- ROR (R253): the old carry enters bit 7. -/
def rotateRight (c : Bool) (m : Byte) : ShiftResult :=
  { r := (m >>> 1) ||| ((bit c).setWidth 8 <<< 7), c := m.getLsbD 0 }

/-- The flags after a shift or rotate (R250 to R253): C the bit shifted out, Z and N from the result. -/
def Flags.afterShift (o : ShiftResult) (p : Flags) : Flags := Flags.setZN o.r { p with c := o.c }

end Sys2Proof.Machine
end

