-- ==== Sys2Proof/Machine/Ops.lean ====
section
/-! DEFINITION. The named operations over registers and memory that every meaning is written with: register accessors, free
values, the PPU bus (20_memory.md R90 to R96), the PPU ports (47_ppu_registers.md), the CPU bus (R72, R73), OAM DMA
(49_dma_clock.md R410, R411), the stack (00_scope.md R13), the shared end of an instruction, TAKING AN INTERRUPT and
returning from one (60_exceptions.md R434, R436, R440; 45_flags_system.md R288, R289). -/

namespace Sys2Proof.Machine

/-- The result of an operation: a value, a fault or a refusal. -/
abbrev Result (α : Type) := Host.Outcome α Fault Refusal

/-- Go on with the value, or stop as the first operation stopped (R444: nothing of the step is kept). -/
def andThen {α β : Type} (x : Result α) (f : α → Result β) : Result β :=
  match x with
  | .next v => f v
  | .fault r => .fault r
  | .refused r => .refused r

/-! ### Registers -/

/-- `A <- v`. -/
def State.setA (v : Byte) (s : State) : State := { s with cpu := { s.cpu with a := v } }

/-- `X <- v`. -/
def State.setX (v : Byte) (s : State) : State := { s with cpu := { s.cpu with x := v } }

/-- `Y <- v`. -/
def State.setY (v : Byte) (s : State) : State := { s with cpu := { s.cpu with y := v } }

/-- `SP <- v`. -/
def State.setSp (v : Byte) (s : State) : State := { s with cpu := { s.cpu with sp := v } }

/-- `PC <- v`. -/
def State.setPc (v : Word) (s : State) : State := { s with cpu := { s.cpu with pc := v } }

/-- The flags become `p`. -/
def State.setFlags (p : Flags) (s : State) : State := { s with cpu := { s.cpu with p := p } }

/-- `cpu.stall <- n`. -/
def State.setStall (n : Nat) (s : State) : State := { s with cpu := { s.cpu with stall := n } }

/-- `cpu.cyc <- n`. -/
def State.setCyc (n : Nat) (s : State) : State := { s with cpu := { s.cpu with cyc := n } }

/-- `cpu.nmi_pending <- b`. -/
def State.setNmiPending (b : Bool) (s : State) : State := { s with cpu := { s.cpu with nmiPending := b } }

/-- The PPU becomes `p`. -/
def State.setPpu (p : Ppu) (s : State) : State := { s with ppu := p }

/-- The writable arrays become `m`. -/
def State.setMem (m : Memory) (s : State) : State := { s with mem := m }

/-- `SetZN(v)` (R14) on the state. -/
def State.setZN (v : Byte) (s : State) : State := s.setFlags (s.cpu.p.setZN v)

/-- `draw(w)` (R16): a free value, and the state in which the next draw is another one. -/
def draw (w : Nat) (s : State) : BitVec w × State := (Config.draw w s.draws, { s with draws := s.draws + 1 })

/-! ### The arrays -/

/-- `ram[i]`; a byte nothing has written is OPEN (R52). -/
def Memory.ramByte (m : Memory) (i : Nat) : Byte := (Cells.get m.ram i).getD (Config.ramInit i)

/-- `vram[i]` (R52). -/
def Memory.vramByte (m : Memory) (i : Nat) : Byte := (Cells.get m.vram i).getD (Config.vramInit i)

/-- `oam[i]` (R52). -/
def Memory.oamByte (m : Memory) (i : Nat) : Byte := (Cells.get m.oam i).getD (Config.oamInit i)

/-- `pal[i]` (R52). -/
def Memory.palCell (m : Memory) (i : Nat) : BitVec 6 := (Cells.get m.pal i).getD (Config.palInit i)

/-- A byte of the hole's array (R78); one nothing has written is OPEN (log entry 24). -/
def Memory.holeByte (m : Memory) (i : Nat) : Byte := (Cells.get m.hole i).getD (Config.holeInit i)

/-- `ram[i] <- v`. -/
def Memory.putRam (i : Nat) (v : Byte) (m : Memory) : Memory := { m with ram := Cells.put m.ram i v }

/-- `vram[i] <- v`. -/
def Memory.putVram (i : Nat) (v : Byte) (m : Memory) : Memory := { m with vram := Cells.put m.vram i v }

/-- `oam[i] <- v`. -/
def Memory.putOam (i : Nat) (v : Byte) (m : Memory) : Memory := { m with oam := Cells.put m.oam i v }

/-- `pal[i] <- v`. -/
def Memory.putPal (i : Nat) (v : BitVec 6) (m : Memory) : Memory := { m with pal := Cells.put m.pal i v }

/-- A store to the hole's array. -/
def Memory.putHole (i : Nat) (v : Byte) (m : Memory) : Memory := { m with hole := Cells.put m.hole i v }

/-- The canonical form of the writable arrays: indexes rise strictly and lie inside the array (R52). -/
def Memory.wf (m : Memory) : Bool :=
  Cells.wf 0x800 m.ram && Cells.wf 0x800 m.vram && (Cells.wf 0x100 m.oam && Cells.wf 0x20 m.pal) &&
    Cells.wf 0x4000 m.hole

/-- `a & 0x07FF`: the `ram` index a CPU address of the RAM window reaches (R74). -/
def ramIndex (a : Word) : Nat := a.toNat % 0x800

/-- A byte of the RAM window (R72, R74). -/
def ramRead (a : Word) (s : State) : Byte := s.mem.ramByte (ramIndex a)

/-- A store to the RAM window (R73, R74). -/
def ramWrite (a : Word) (v : Byte) (s : State) : State := s.setMem (s.mem.putRam (ramIndex a) v)

/-- `a & 0x3FFF`: the index of an address of the hole in the array behind it (R78). -/
def holeIndex (a : Word) : Nat := a.toNat % 0x4000

/-! ### The PPU bus -/

/-- `NtIndex(a)` (R93, R94). -/
def ntIndex (m : Mirroring) (a : PpuAddr) : Nat :=
  match m with
  | .vertical => ((a.extractLsb' 10 1 ++ a.extractLsb' 0 10 : BitVec 11)).toNat
  | .horizontal => ((a.extractLsb' 11 1 ++ a.extractLsb' 0 10 : BitVec 11)).toNat

/-- `PalIndex(a)` (R95). -/
def palIndex (a : PpuAddr) : Nat := if a &&& 0x13 = 0x10 then (a &&& 0x0F).toNat else (a &&& 0x1F).toNat

/-- `PpuRead(a)` (R90). -/
def ppuRead (c : Cartridge) (m : Memory) (a : PpuAddr) : Byte :=
  if a ≤ 0x1FFF then c.chrByte (c.mapPpu a)
  else if a ≤ 0x3EFF then m.vramByte (ntIndex c.mirroring a)
  else (m.palCell (palIndex a)).setWidth 8

/-- `PpuWrite(a, v)` (R90): CHR ignores writes, a palette cell keeps `v[5:0]`. -/
def ppuWrite (c : Cartridge) (a : PpuAddr) (v : Byte) (m : Memory) : Memory :=
  if a ≤ 0x1FFF then m
  else if a ≤ 0x3EFF then m.putVram (ntIndex c.mirroring a) v
  else m.putPal (palIndex a) (v.extractLsb' 0 6)

/-! ### The PPU ports -/

/-- `rendering`: `ppu.mask[3] | ppu.mask[4]` (R42). -/
def Ppu.rendering (p : Ppu) : Bool := p.mask.getLsbD 3 || p.mask.getLsbD 4

/-- The render lines: 0 to 239 and the pre-render line (R317, R345). -/
def Ppu.onRenderLine (p : Ppu) (k : Params) : Bool := decide (p.scanline ≤ 239) || p.scanline == k.preRenderLine

/-- "The PPU is rendering" (R317). -/
def Ppu.isRendering (p : Ppu) (k : Params) : Bool := p.rendering && p.onRenderLine k

/-- `UpdateNmi()` (R303): a rising edge of `vblank & ctrl[7]` latches a request. -/
def updateNmi (s : State) : State :=
  let new := s.ppu.vblank && s.ppu.ctrl.getLsbD 7
  { s with
    cpu := { s.cpu with nmiPending := s.cpu.nmiPending || (!s.ppu.nmiLine && new) }
    ppu := { s.ppu with nmiLine := new } }

/-- `ppu.v & 0x3FFF`: the PPU-bus address of the data port (R312, R313). -/
def Ppu.dataAddr (p : Ppu) : PpuAddr := p.v.setWidth 14

/-- `v` after a data-port access (R312, R313, R316): plus 1 or 32, modulo 0x8000. -/
def Ppu.nextV (p : Ppu) : Scroll := p.v + (if p.ctrl.getLsbD 2 then 32 else 1)

/-- Port 2, status, read (R307). -/
def readStatus (s : State) : Byte × State :=
  let (low, s) := draw 5 s
  let r : Byte := bit s.ppu.vblank ++ bit s.ppu.s0hit ++ bit s.ppu.overflow ++ low
  (r, updateNmi (s.setPpu { s.ppu with vblank := false, w := false }))

/-- Port 4, OAM data, read (R309): `draw(8)` while the PPU is rendering. -/
def readOamData (s : State) : Byte × State :=
  if s.ppu.isRendering s.params then draw 8 s else (s.mem.oamByte s.ppu.oamaddr.toNat, s)

/-- Port 7, data, read (R312); refused while the PPU is rendering. -/
def readData (s : State) : Result (Byte × State) :=
  if s.ppu.isRendering s.params then .refused (.portAccessWhileRendering 7)
  else
    let a := s.ppu.dataAddr
    let byte := ppuRead s.cart s.mem a
    if a ≤ 0x3EFF then
      .next (s.ppu.readbuf, s.setPpu { s.ppu with readbuf := byte, v := s.ppu.nextV })
    else
      .next (byte, s.setPpu { s.ppu with readbuf := ppuRead s.cart s.mem (a &&& 0x2FFF), v := s.ppu.nextV })

/-- `PpuPortRead(p)` (R304). The write-only ports read as `draw(8)` (R301). -/
def portRead (p : BitVec 3) (s : State) : Result (Byte × State) :=
  if p = 2 then .next (readStatus s)
  else if p = 4 then .next (readOamData s)
  else if p = 7 then readData s
  else .next (draw 8 s)

/-- Port 0, control, write (R306). -/
def writeControl (d : Byte) (s : State) : State :=
  updateNmi (s.setPpu { s.ppu with ctrl := d, t := putField s.ppu.t 10 (d.extractLsb' 0 2) })

/-- Port 1, mask, write (R315). -/
def writeMask (d : Byte) (s : State) : State := s.setPpu { s.ppu with mask := d }

/-- Port 3, OAM address, write (R308). -/
def writeOamAddr (d : Byte) (s : State) : State := s.setPpu { s.ppu with oamaddr := d }

/-- Port 4, OAM data, write (R310); refused while the PPU is rendering. -/
def writeOamData (d : Byte) (s : State) : Result State :=
  if s.ppu.isRendering s.params then .refused (.portAccessWhileRendering 4)
  else .next { s with mem := s.mem.putOam s.ppu.oamaddr.toNat d, ppu := { s.ppu with oamaddr := s.ppu.oamaddr + 1 } }

/-- Port 5, scroll, write (R311). -/
def writeScroll (d : Byte) (s : State) : State :=
  if s.ppu.w then
    s.setPpu { s.ppu with
      t := putField (putField s.ppu.t 12 (d.extractLsb' 0 3)) 5 (d.extractLsb' 3 5), w := false }
  else
    s.setPpu { s.ppu with t := putField s.ppu.t 0 (d.extractLsb' 3 5), x := d.extractLsb' 0 3, w := true }

/-- Port 6, address, write (R314). -/
def writeAddr (d : Byte) (s : State) : State :=
  if s.ppu.w then
    let t := putField s.ppu.t 0 d
    s.setPpu { s.ppu with t := t, v := t, w := false }
  else
    s.setPpu { s.ppu with t := putField (putField s.ppu.t 8 (d.extractLsb' 0 6)) 14 (0#1), w := true }

/-- Port 7, data, write (R313); refused while the PPU is rendering. -/
def writeData (d : Byte) (s : State) : Result State :=
  if s.ppu.isRendering s.params then .refused (.portAccessWhileRendering 7)
  else .next { s with mem := ppuWrite s.cart s.ppu.dataAddr d s.mem, ppu := { s.ppu with v := s.ppu.nextV } }

/-- `PpuPortWrite(p, d)` (R305). The status port ignores writes (R301). -/
def portWrite (p : BitVec 3) (d : Byte) (s : State) : Result State :=
  if p = 0 then .next (writeControl d s)
  else if p = 1 then .next (writeMask d s)
  else if p = 2 then .next s
  else if p = 3 then .next (writeOamAddr d s)
  else if p = 4 then writeOamData d s
  else if p = 5 then .next (writeScroll d s)
  else if p = 6 then .next (writeAddr d s)
  else writeData d s

/-! ### The CPU bus -/

/-- The OAM-DMA port (R76). -/
def dmaPort : Word := 0x4014

/-- `a & 7`: the port a CPU address of the port window reaches (R75). -/
def portOf (a : Word) : BitVec 3 := a.extractLsb' 0 3

/-- A read of the hole (R78): a fault, or the array behind it where `HOLE_POLICY` is `ram`. -/
def holeRead (a : Word) (s : State) : Result (Byte × State) :=
  match s.params.holePolicy with
  | .fault => .fault (.addressOutOfRange a .read s.cpu.pc)
  | .ram => .next (s.mem.holeByte (holeIndex a), s)

/-- A write to the hole (R78). -/
def holeWrite (a : Word) (v : Byte) (s : State) : Result State :=
  match s.params.holePolicy with
  | .fault => .fault (.addressOutOfRange a .write s.cpu.pc)
  | .ram => .next (s.setMem (s.mem.putHole (holeIndex a) v))

/-- `MemRead(a, 1)` (R72). -/
def memRead (a : Word) (s : State) : Result (Byte × State) :=
  if a ≤ 0x1FFF then .next (ramRead a s, s)
  else if a ≤ 0x3FFF then portRead (portOf a) s
  else if a = dmaPort then .next (draw 8 s)
  else if a ≤ 0x7FFF then holeRead a s
  else .next (s.cart.cpuByte a, s)

/-- The copy of `OamDma` (R410): the last `n` of the 256 bytes of page `p`, in ascending order. -/
def oamDmaCopy (p : Byte) : Nat → State → Result State
  | 0, s => .next s
  | n + 1, s =>
    let i : Byte := BitVec.ofNat 8 (256 - (n + 1))
    andThen (memRead (joinBytes p i) s) fun r =>
      oamDmaCopy p n (r.2.setMem (r.2.mem.putOam (r.2.ppu.oamaddr + i).toNat r.1))

/-- `OamDma(p)` (R410); refused while the PPU is rendering (R413). The stall it adds is `dmaExtra`. -/
def oamDma (p : Byte) (s : State) : Result State :=
  if s.ppu.isRendering s.params then .refused .dmaWhileRendering else oamDmaCopy p 256 s

/-- `MemWrite(a, 1, v)` (R73). -/
def memWrite (a : Word) (v : Byte) (s : State) : Result State :=
  if a ≤ 0x1FFF then .next (ramWrite a v s)
  else if a ≤ 0x3FFF then portWrite (portOf a) v s
  else if a = dmaPort then oamDma v s
  else if a ≤ 0x7FFF then holeWrite a v s
  else .next s

/-- `dma_extra` (R411) of an instruction of `n` cycles that wrote to `a`: `DMA_BASE_CYCLES`, one more when the transfer's
first cycle, `cpu.cyc + n`, is odd; 0 when the write was no DMA trigger. -/
def dmaExtra (a : Word) (n : Nat) (s : State) : Nat :=
  if a = dmaPort then s.params.dmaBaseCycles + (s.cpu.cyc + n) % 2 else 0

/-! ### The stack and the vectors -/

/-- `0x0100 | SP` (R24). -/
def stackAddr (sp : Byte) : Word := 0x0100 ||| zext16 sp

/-- `Push(v)` (R13): the stack page is `ram`, so the write cannot fault (R210). -/
def push (v : Byte) (s : State) : State := (ramWrite (stackAddr s.cpu.sp) v s).setSp (s.cpu.sp - 1)

/-- `Pull()` (R13). -/
def pull (s : State) : Byte × State :=
  let s := s.setSp (s.cpu.sp + 1)
  (ramRead (stackAddr s.cpu.sp) s, s)

/-- Push a 16-bit address, high byte first (R82, R262, R288, R434). -/
def pushWord (w : Word) (s : State) : State := push (loByte w) (push (hiByte w) s)

/-- Pull a 16-bit address, low byte first (R263, R289). -/
def pullWord (s : State) : Word × State :=
  let (lo, s) := pull s
  let (hi, s) := pull s
  (joinBytes hi lo, s)

/-- `MemRead16(vector)` (R12, R79): the vectors lie in the PRG window, so the read cannot fault. -/
def vectorRead (vector : Word) (s : State) : Word := s.cart.vector vector

/-! ### The end of an instruction -/

/-- `PC <- pc`, and the step reports `n` cycles: the `n - 1` that follow are stall cycles (R402, R404). -/
def finish (pc : Word) (n : Nat) (s : State) : Result State := .next ((s.setPc pc).setStall (n - 1))

/-- `PC <- (PC + len) & 0xFFFF` (R25): the end of an instruction that is no control transfer. -/
def advance (len : Nat) (n : Nat) (s : State) : Result State := finish (s.cpu.pc + BitVec.ofNat 16 len) n s

/-! ### Taking an interrupt and returning from one -/

/-- What NMI, IRQ and BRK do alike (R440): push `ret` (PCH, PCL) and the status byte `status`, set I, load PC from the
vector; A, X, Y and the other flags stay. `n` cycles. -/
def enterInterrupt (ret : Word) (status : Byte) (vector : Word) (n : Nat) (s : State) : Result State :=
  let s := push status (pushWord ret s)
  finish (vectorRead vector s) n (s.setFlags { s.cpu.p with i := true })

/-- `NmiEntry()` (R434): the current PC is pushed. -/
def nmiEntry (s : State) : Result State :=
  enterInterrupt s.cpu.pc (s.cpu.p.pushedByHardware s.params) s.params.vecNmi s.params.intCycles (s.setNmiPending false)

/-- `IrqEntry()` (R436): the current PC is pushed. -/
def irqEntry (s : State) : Result State :=
  enterInterrupt s.cpu.pc (s.cpu.p.pushedByHardware s.params) s.params.vecIrq s.params.intCycles s

/-- The return from an interrupt (R289, R442): pull the status (bits 5 and 4 ignored), PCL, PCH. -/
def returnFromInterrupt (n : Nat) (s : State) : Result State :=
  let (b, s) := pull s
  let s := s.setFlags (s.cpu.p.unpack b)
  let (pc, s) := pullWord s
  finish pc n s

end Sys2Proof.Machine
end

