-- ==== Sys2Proof/Machine/Operands.lean ====
section
/-! DEFINITION. The addressing modes (30_encoding.md R126 to R138) and the shapes an instruction's rule takes: implied,
reading, storing, read-modify-write, branching (R125, R139, R150; R200, R225, R245, R264). -/

namespace Sys2Proof.Machine

/-- `JMP`'s second pointer address `ptr2`, by `JMP_IND_PAGE_WRAP` (R136). -/
def pointerHigh (pageWrap : Bool) (ptr : Word) : Word :=
  if pageWrap then joinBytes (hiByte ptr) (loByte ptr + 1) else ptr + 1

/-- What `Resolve` gives a memory mode (R125): the effective address and the page-cross bit. -/
structure Effective where
  /-- The effective address `ea`. -/
  ea : Word
  /-- The page-cross bit `px`. -/
  px : Bool
  deriving DecidableEq, Repr

/-- An address without indexing: no page cross. -/
def direct (ea : Word) : Effective := { ea := ea, px := false }

/-- `base` plus an index register, with its page-cross bit (R134, R135, R138). -/
def indexed (base : Word) (index : Byte) : Effective :=
  { ea := base + zext16 index, px := pageCross base (base + zext16 index) }

/-- The 16-bit pointer whose bytes lie at `lo` and `hi`, read in that order (R136, R137, R138, R139). -/
def readPointer (lo hi : Word) (s : State) : Result (Word × State) :=
  andThen (memRead lo s) fun l => andThen (memRead hi l.2) fun h => .next (joinBytes h.1 l.1, h.2)

/-- `Resolve` for the modes that have an effective address in memory (R129 to R131, R133 to R138). The four others have
none: a meaning that asks for one has no table entry, the fault of R443. -/
def effective (o : Operand) (s : State) : Result (Effective × State) :=
  match o with
  | .zp b => .next (direct (zext16 b), s)
  | .zpx b => .next (direct (zext16 (b + s.cpu.x)), s)
  | .zpy b => .next (direct (zext16 (b + s.cpu.y)), s)
  | .abs w => .next (direct w, s)
  | .abx w => .next (indexed w s.cpu.x, s)
  | .aby w => .next (indexed w s.cpu.y, s)
  | .ind w => andThen (readPointer w (pointerHigh s.params.jmpIndPageWrap w) s) fun r => .next (direct r.1, r.2)
  | .izx b =>
    let z := b + s.cpu.x
    andThen (readPointer (zext16 z) (zext16 (z + 1)) s) fun r => .next (direct r.1, r.2)
  | .izy b =>
    andThen (readPointer (zext16 b) (zext16 (b + 1)) s) fun r => .next (indexed r.1 r.2.cpu.y, r.2)
  | .imp | .acc | .imm _ | .rel _ => .fault (.configurationError none s.cpu.pc)

/-- An operand that has been read: the value, the page-cross bit, the state after the reads. -/
structure Fetched where
  /-- The 8-bit operand `m`. -/
  value : Byte
  /-- The page-cross bit. -/
  px : Bool
  /-- The state after the pointer reads and the operand read. -/
  after : State
  deriving DecidableEq, Repr

/-- The operand `m` of a reading instruction: `b1`, or the byte at the effective address, read once (R125, R200, R225,
R245). -/
def readOperand (o : Operand) (s : State) : Result Fetched :=
  match o with
  | .imm b => .next { value := b, px := false, after := s }
  | o =>
    andThen (effective o s) fun e =>
      andThen (memRead e.1.ea e.2) fun r => .next { value := r.1, px := e.1.px, after := r.2 }

/-- Go on with the base cycle cost `CYC` of the opcode the table gives the mnemonic at this mode (R150); without an entry,
"an opcode lacking a table entry for its addressing mode is a fatal ConfigurationError" (R124, R443). -/
def withEntry (mn : Mnemonic) (mode : Mode) (s : State) (run : Nat → Result State) : Result State :=
  match tableEntry mn mode with
  | some e => run (s.params.cycles e.opcode)
  | none => .fault (.configurationError none s.cpu.pc)

/-- A one-byte instruction with no operand that changes the state by `f` (R210, R280). -/
def implied (mn : Mnemonic) (f : State → State) (s : State) : Result State :=
  withEntry mn .imp s fun n => advance 1 n (f s)

/-- An instruction that reads an operand and changes the state by `f`; one more cycle on a page cross in ABX, ABY, IZY,
the only modes of such an instruction with a page-cross bit (R150). -/
def reading (mn : Mnemonic) (o : Operand) (f : Byte → State → State) (s : State) : Result State :=
  withEntry mn o.mode s fun n =>
    andThen (readOperand o s) fun m => advance o.mode.length (n + m.px.toNat) (f m.value m.after)

/-- A store of `v`: no read of the target, no page-cross cycle (R200, R204); a store to the DMA port adds the stall of
R411. -/
def storing (mn : Mnemonic) (o : Operand) (v : Byte) (s : State) : Result State :=
  withEntry mn o.mode s fun n =>
    andThen (effective o s) fun e =>
      andThen (memWrite e.1.ea v e.2) fun s' => advance o.mode.length (n + dmaExtra e.1.ea n s') s'

/-- A read-modify-write of memory: one read, then one write of the same address (R84, R225, R245); `r` is the byte
written, `f` what else the instruction changes, both from the byte read. -/
def modifying (mn : Mnemonic) (o : Operand) (r : Byte → Byte) (f : Byte → State → State) (s : State) : Result State :=
  withEntry mn o.mode s fun n =>
    andThen (effective o s) fun e =>
      andThen (memRead e.1.ea e.2) fun m =>
        andThen (memWrite e.1.ea (r m.1) m.2) fun s' =>
          advance o.mode.length (n + dmaExtra e.1.ea n s') (f m.1 s')

/-- A shift or rotate `sh`, of A in mode ACC and of memory otherwise (R245). -/
def shifting (mn : Mnemonic) (o : Operand) (sh : Byte → ShiftResult) (s : State) : Result State :=
  match o with
  | .acc =>
    withEntry mn .acc s fun n =>
      let q := sh s.cpu.a
      advance 1 n ((s.setA q.r).setFlags (s.cpu.p.afterShift q))
  | o => modifying mn o (fun m => (sh m).r) (fun m s => s.setFlags (s.cpu.p.afterShift (sh m))) s

/-- The target of a branch: relative to the address of the next instruction (R132). -/
def branchTarget (pc : Word) (offset : Byte) : Word := pc + 2 + sext16 offset

/-- A conditional branch (R264). -/
def branching (mn : Mnemonic) (cond : Bool) (offset : Byte) (s : State) : Result State :=
  withEntry mn .rel s fun n =>
    let next := s.cpu.pc + 2
    let target := branchTarget s.cpu.pc offset
    if cond then finish target (n + 1 + (pageCross next target).toNat) s else finish next n s

end Sys2Proof.Machine
end

