-- ==== Sys2Proof/Machine/Arithmetic.lean ====
section
/-! DEFINITION. The arithmetic instructions (42_arithmetic.md R225 to R240). -/

namespace Sys2Proof.Machine

/-- The binary arithmetic of ADC and SBC, whatever D holds (R240). Where the parameter `DECIMAL_ENABLED` is true and D is
set, the instruction is refused: "no decimal rule is given" (93_implementation_defined.md U12). -/
def binary (s : State) (run : Result State) : Result State :=
  if s.params.decimalEnabled && s.cpu.p.d then .refused .decimalArithmetic else run

/-- ADC, add with carry (R226). -/
def execAdc (o : Operand) (s : State) : Result State :=
  binary s <| reading .adc o (fun m s =>
    let q := addWithCarry s.cpu.a m s.cpu.p.c
    (s.setA q.r).setFlags (s.cpu.p.afterAlu q)) s

/-- SBC, subtract with borrow (R227). -/
def execSbc (o : Operand) (s : State) : Result State :=
  binary s <| reading .sbc o (fun m s =>
    let q := subWithBorrow s.cpu.a m s.cpu.p.c
    (s.setA q.r).setFlags (s.cpu.p.afterAlu q)) s

/-- CMP, compare with A (R228). -/
def execCmp (o : Operand) (s : State) : Result State :=
  reading .cmp o (fun m s => s.setFlags (s.cpu.p.afterCompare s.cpu.a m)) s

/-- CPX, compare with X (R229). -/
def execCpx (o : Operand) (s : State) : Result State :=
  reading .cpx o (fun m s => s.setFlags (s.cpu.p.afterCompare s.cpu.x m)) s

/-- CPY, compare with Y (R230). -/
def execCpy (o : Operand) (s : State) : Result State :=
  reading .cpy o (fun m s => s.setFlags (s.cpu.p.afterCompare s.cpu.y m)) s

/-- INC, increment memory (R231). -/
def execInc (o : Operand) (s : State) : Result State :=
  modifying .inc o (fun m => m + 1) (fun m s => s.setZN (m + 1)) s

/-- INX, increment X (R232). -/
def execInx (s : State) : Result State := implied .inx (fun s => (s.setX (s.cpu.x + 1)).setZN (s.cpu.x + 1)) s

/-- INY, increment Y (R233). -/
def execIny (s : State) : Result State := implied .iny (fun s => (s.setY (s.cpu.y + 1)).setZN (s.cpu.y + 1)) s

/-- DEC, decrement memory (R234). -/
def execDec (o : Operand) (s : State) : Result State :=
  modifying .dec o (fun m => m - 1) (fun m s => s.setZN (m - 1)) s

/-- DEX, decrement X (R235). -/
def execDex (s : State) : Result State := implied .dex (fun s => (s.setX (s.cpu.x - 1)).setZN (s.cpu.x - 1)) s

/-- DEY, decrement Y (R236). -/
def execDey (s : State) : Result State := implied .dey (fun s => (s.setY (s.cpu.y - 1)).setZN (s.cpu.y - 1)) s

end Sys2Proof.Machine
end

