-- ==== Sys2Proof/Machine/Control.lean ====
section
/-! DEFINITION. The control-transfer instructions (44_control.md R260 to R273): each assigns PC itself, none changes a flag. -/

namespace Sys2Proof.Machine

/-- JMP, jump (R261). -/
def execJmp (o : Operand) (s : State) : Result State :=
  withEntry .jmp o.mode s fun n => andThen (effective o s) fun e => finish e.1.ea n e.2

/-- JSR, jump to subroutine (R262). -/
def execJsr (target : Word) (s : State) : Result State :=
  withEntry .jsr .abs s fun n => finish target n (pushWord (s.cpu.pc + 2) s)

/-- RTS, return from subroutine (R263). -/
def execRts (s : State) : Result State := withEntry .rts .imp s fun n => finish ((pullWord s).1 + 1) n (pullWord s).2

/-- BCC, branch if carry clear (R265). -/
def execBcc (offset : Byte) (s : State) : Result State := branching .bcc (!s.cpu.p.c) offset s

/-- BCS, branch if carry set (R266). -/
def execBcs (offset : Byte) (s : State) : Result State := branching .bcs s.cpu.p.c offset s

/-- BEQ, branch if zero set (R267). -/
def execBeq (offset : Byte) (s : State) : Result State := branching .beq s.cpu.p.z offset s

/-- BNE, branch if zero clear (R268). -/
def execBne (offset : Byte) (s : State) : Result State := branching .bne (!s.cpu.p.z) offset s

/-- BMI, branch if negative set (R269). -/
def execBmi (offset : Byte) (s : State) : Result State := branching .bmi s.cpu.p.n offset s

/-- BPL, branch if negative clear (R270). -/
def execBpl (offset : Byte) (s : State) : Result State := branching .bpl (!s.cpu.p.n) offset s

/-- BVC, branch if overflow clear (R271). -/
def execBvc (offset : Byte) (s : State) : Result State := branching .bvc (!s.cpu.p.v) offset s

/-- BVS, branch if overflow set (R272). -/
def execBvs (offset : Byte) (s : State) : Result State := branching .bvs s.cpu.p.v offset s

end Sys2Proof.Machine
end

