-- ==== Sys2Proof/Machine/FlagSystem.lean ====
section
/-! DEFINITION. The flag and system instructions (45_flags_system.md R280 to R290) and the undefined opcode bytes
(30_encoding.md R124, R160). -/

namespace Sys2Proof.Machine

/-- CLC, clear carry (R281). -/
def execClc (s : State) : Result State := implied .clc (fun s => s.setFlags { s.cpu.p with c := false }) s

/-- SEC, set carry (R282). -/
def execSec (s : State) : Result State := implied .sec (fun s => s.setFlags { s.cpu.p with c := true }) s

/-- CLI, clear interrupt disable (R283). -/
def execCli (s : State) : Result State := implied .cli (fun s => s.setFlags { s.cpu.p with i := false }) s

/-- SEI, set interrupt disable (R284). -/
def execSei (s : State) : Result State := implied .sei (fun s => s.setFlags { s.cpu.p with i := true }) s

/-- CLD, clear decimal (R285). -/
def execCld (s : State) : Result State := implied .cld (fun s => s.setFlags { s.cpu.p with d := false }) s

/-- SED, set decimal (R286). -/
def execSed (s : State) : Result State := implied .sed (fun s => s.setFlags { s.cpu.p with d := true }) s

/-- CLV, clear overflow (R287). -/
def execClv (s : State) : Result State := implied .clv (fun s => s.setFlags { s.cpu.p with v := false }) s

/-- BRK, force break (R288). -/
def execBrk (s : State) : Result State :=
  withEntry .brk .imp s fun n => enterInterrupt (s.cpu.pc + 2) s.cpu.p.pushed s.params.vecIrq n s

/-- RTI, return from interrupt (R289). -/
def execRti (s : State) : Result State := withEntry .rti .imp s fun n => returnFromInterrupt n s

/-- NOP, no operation (R290). -/
def execNop (s : State) : Result State := implied .nop (fun s => s) s

/-- A byte that is no opcode: the fatal `ConfigurationError`, with the byte and its address (R124, R160, R443). -/
def execUndefinedOpcode (opcode : Byte) (s : State) : Result State :=
  .fault (.configurationError (some opcode) s.cpu.pc)

end Sys2Proof.Machine
end

