-- ==== Sys2Proof/Machine/LoadStore.lean ====
section
/-! DEFINITION. The load and store instructions (40_load_store.md R200 to R206). -/

namespace Sys2Proof.Machine

/-- LDA, load A (R201). -/
def execLda (o : Operand) (s : State) : Result State := reading .lda o (fun m s => (s.setA m).setZN m) s

/-- LDX, load X (R202). -/
def execLdx (o : Operand) (s : State) : Result State := reading .ldx o (fun m s => (s.setX m).setZN m) s

/-- LDY, load Y (R203). -/
def execLdy (o : Operand) (s : State) : Result State := reading .ldy o (fun m s => (s.setY m).setZN m) s

/-- STA, store A (R204). -/
def execSta (o : Operand) (s : State) : Result State := storing .sta o s.cpu.a s

/-- STX, store X (R205). -/
def execStx (o : Operand) (s : State) : Result State := storing .stx o s.cpu.x s

/-- STY, store Y (R206). -/
def execSty (o : Operand) (s : State) : Result State := storing .sty o s.cpu.y s

end Sys2Proof.Machine
end

