-- ==== Sys2Proof/Machine/LogicShift.lean ====
section
/-! DEFINITION. The logic, bit-test, shift and rotate instructions (43_logic_shift.md R245 to R253). -/

namespace Sys2Proof.Machine

/-- AND, bitwise and (R246). -/
def execAnd (o : Operand) (s : State) : Result State :=
  reading .and o (fun m s => (s.setA (s.cpu.a &&& m)).setZN (s.cpu.a &&& m)) s

/-- ORA, bitwise or (R247). -/
def execOra (o : Operand) (s : State) : Result State :=
  reading .ora o (fun m s => (s.setA (s.cpu.a ||| m)).setZN (s.cpu.a ||| m)) s

/-- EOR, bitwise exclusive or (R248). -/
def execEor (o : Operand) (s : State) : Result State :=
  reading .eor o (fun m s => (s.setA (s.cpu.a ^^^ m)).setZN (s.cpu.a ^^^ m)) s

/-- BIT, test bits (R249). -/
def execBit (o : Operand) (s : State) : Result State :=
  reading .bit o (fun m s => s.setFlags (s.cpu.p.afterBit s.cpu.a m)) s

/-- ASL, arithmetic shift left (R250). -/
def execAsl (o : Operand) (s : State) : Result State := shifting .asl o shiftLeft s

/-- LSR, logical shift right (R251). -/
def execLsr (o : Operand) (s : State) : Result State := shifting .lsr o shiftRight s

/-- ROL, rotate left through carry (R252). -/
def execRol (o : Operand) (s : State) : Result State := shifting .rol o (rotateLeft s.cpu.p.c) s

/-- ROR, rotate right through carry (R253). -/
def execRor (o : Operand) (s : State) : Result State := shifting .ror o (rotateRight s.cpu.p.c) s

end Sys2Proof.Machine
end

