-- ==== Sys2Proof/Machine/TransferStack.lean ====
section
/-! DEFINITION. The register transfer and stack instructions (41_transfer_stack.md R210 to R220). -/

namespace Sys2Proof.Machine

/-- TAX, transfer A to X (R211). -/
def execTax (s : State) : Result State := implied .tax (fun s => (s.setX s.cpu.a).setZN s.cpu.a) s

/-- TAY, transfer A to Y (R212). -/
def execTay (s : State) : Result State := implied .tay (fun s => (s.setY s.cpu.a).setZN s.cpu.a) s

/-- TXA, transfer X to A (R213). -/
def execTxa (s : State) : Result State := implied .txa (fun s => (s.setA s.cpu.x).setZN s.cpu.x) s

/-- TYA, transfer Y to A (R214). -/
def execTya (s : State) : Result State := implied .tya (fun s => (s.setA s.cpu.y).setZN s.cpu.y) s

/-- TSX, transfer SP to X (R215). -/
def execTsx (s : State) : Result State := implied .tsx (fun s => (s.setX s.cpu.sp).setZN s.cpu.sp) s

/-- TXS, transfer X to SP (R216). -/
def execTxs (s : State) : Result State := implied .txs (fun s => s.setSp s.cpu.x) s

/-- PHA, push A (R217). -/
def execPha (s : State) : Result State := implied .pha (fun s => push s.cpu.a s) s

/-- PHP, push status (R218). -/
def execPhp (s : State) : Result State := implied .php (fun s => push s.cpu.p.pushed s) s

/-- PLA, pull A (R219). -/
def execPla (s : State) : Result State := implied .pla (fun s => ((pull s).2.setA (pull s).1).setZN (pull s).1) s

/-- PLP, pull status (R220). -/
def execPlp (s : State) : Result State := implied .plp (fun s => (pull s).2.setFlags (s.cpu.p.unpack (pull s).1)) s

end Sys2Proof.Machine
end

