-- ==== Sys2Proof/Machine/Ppu.lean ====
section
/-! DEFINITION. The PPU's scanline and dot machine (48_ppu_rendering.md): `PpuDot()` with the background fetcher and its
shifters, the scroll algebra, the three sprite phases, the pixel multiplexer and the pixel output. -/

namespace Sys2Proof.Machine

/-! ### Fields of a scroll register (R45) -/

/-- Coarse X, bits 4:0. -/
def coarseX (v : Scroll) : BitVec 5 := v.extractLsb' 0 5

/-- Coarse Y, bits 9:5. -/
def coarseY (v : Scroll) : BitVec 5 := v.extractLsb' 5 5

/-- Fine Y, bits 14:12. -/
def fineY (v : Scroll) : BitVec 3 := v.extractLsb' 12 3

/-- `IncCoarseX()` (R351). -/
def incCoarseX (v : Scroll) : Scroll :=
  if coarseX v = 31 then putField (putField v 0 (0#5)) 10 (~~~(v.extractLsb' 10 1)) else putField v 0 (coarseX v + 1)

/-- The coarse-Y step of `IncY()` (R352): 29 wraps and toggles bit 11, 31 wraps silently. -/
def incCoarseY (v : Scroll) : Scroll :=
  if coarseY v = 29 then putField (putField v 5 (0#5)) 11 (~~~(v.extractLsb' 11 1))
  else if coarseY v = 31 then putField v 5 (0#5)
  else putField v 5 (coarseY v + 1)

/-- `IncY()` (R352). -/
def incY (v : Scroll) : Scroll :=
  if fineY v = 7 then incCoarseY (putField v 12 (0#3)) else putField v 12 (fineY v + 1)

/-- The horizontal copy of `t` into `v` (R353). -/
def copyHorizontal (t v : Scroll) : Scroll := putField (putField v 10 (t.extractLsb' 10 1)) 0 (t.extractLsb' 0 5)

/-- The vertical copy of `t` into `v` (R354). -/
def copyVertical (t v : Scroll) : Scroll := putField (putField v 11 (t.extractLsb' 11 4)) 5 (t.extractLsb' 5 5)

/-! ### Background (R347 to R358) -/

/-- The nametable address (R348). -/
def nametableAddr (v : Scroll) : PpuAddr := 0x2000 ||| (v.setWidth 14 &&& 0x0FFF)

/-- The attribute address (R349). -/
def attributeAddr (v : Scroll) : PpuAddr :=
  (0x23C0 ||| (v &&& 0x0C00) ||| ((v >>> 4) &&& 0x38) ||| ((v >>> 2) &&& 0x07)).setWidth 14

/-- The palette number a tile takes from its attribute byte (R349). -/
def attributeBits (v : Scroll) (b : Byte) : BitVec 2 := (b >>> (((v >>> 4) &&& 4) ||| (v &&& 2)).toNat).extractLsb' 0 2

/-- `BgPatAddr()` (R350). -/
def Ppu.bgPatternAddr (p : Ppu) : PpuAddr := 0#1 ++ bit (p.ctrl.getLsbD 4) ++ p.ntByte ++ 0#1 ++ fineY p.v

/-- The shift of the four shifters (R355). -/
def Ppu.shift (p : Ppu) : Ppu :=
  { p with bgLo := p.bgLo <<< 1, bgHi := p.bgHi <<< 1, atLo := p.atLo <<< 1, atHi := p.atHi <<< 1 }

/-- `r[7:0] <- b` of a shifter. -/
def loadLow (r : BitVec 16) (b : Byte) : BitVec 16 := r.extractLsb' 8 8 ++ b

/-- The reload of the four shifters' low halves (R355). -/
def Ppu.reload (p : Ppu) : Ppu :=
  { p with
    bgLo := loadLow p.bgLo p.ptLo
    bgHi := loadLow p.bgHi p.ptHi
    atLo := loadLow p.atLo (if p.atBits.getLsbD 0 then 0xFF else 0x00)
    atHi := loadLow p.atHi (if p.atBits.getLsbD 1 then 0xFF else 0x00) }

/-- The dots at which the shifters shift (R355). -/
def isShiftDot (d : Nat) : Bool := decide (2 ≤ d ∧ d ≤ 257) || decide (322 ≤ d ∧ d ≤ 337)

/-- The dots of the fetch groups (R347). -/
def isFetchDot (d : Nat) : Bool := decide (1 ≤ d ∧ d ≤ 256) || decide (321 ≤ d ∧ d ≤ 336)

/-- Shift, then reload (R355). -/
def bgShift (d : Nat) (p : Ppu) : Ppu :=
  if isShiftDot d then (if d % 8 = 1 then p.shift.reload else p.shift) else p

/-- The action of a dot of a fetch group, by its phase (R347). -/
def bgFetch (c : Cartridge) (m : Memory) (d : Nat) (p : Ppu) : Ppu :=
  if isFetchDot d then
    match (d - 1) % 8 with
    | 0 => { p with ntByte := ppuRead c m (nametableAddr p.v) }
    | 2 => { p with atBits := attributeBits p.v (ppuRead c m (attributeAddr p.v)) }
    | 4 => { p with ptLo := ppuRead c m p.bgPatternAddr }
    | 6 => { p with ptHi := ppuRead c m (p.bgPatternAddr + 8) }
    | 7 => { p with v := incCoarseX p.v }
    | _ => p
  else p

/-- The scroll updates that belong to one dot of a line: `IncY` at 256, the horizontal copy at 257, the vertical copy at
280 to 304 of the pre-render line (R352, R353, R354). -/
def bgScroll (k : Params) (sl d : Nat) (p : Ppu) : Ppu :=
  if d = 256 then { p with v := incY p.v }
  else if d = 257 then { p with v := copyHorizontal p.t p.v }
  else if sl = k.preRenderLine ∧ 280 ≤ d ∧ d ≤ 304 then { p with v := copyVertical p.t p.v }
  else p

/-- `BgDot(s, d)` (R345): shift, reload, fetch, scroll updates. The discarded reads of R357 have no effect. -/
def bgDot (k : Params) (c : Cartridge) (m : Memory) (sl d : Nat) (p : Ppu) : Ppu :=
  bgScroll k sl d (bgFetch c m d (bgShift d p))

/-! ### Sprites (R360 to R368) -/

/-- The sprite height: `ppu.ctrl[5]` (R41). -/
def Ppu.spriteHeight (p : Ppu) : Nat := if p.ctrl.getLsbD 5 then 16 else 8

/-- OAM entry `i` (R53). -/
def Memory.sprite (m : Memory) (i : Nat) : Sprite :=
  { y := m.oamByte (4 * i), tile := m.oamByte (4 * i + 1), attr := m.oamByte (4 * i + 2), x := m.oamByte (4 * i + 3) }

/-- Phase 1 (R361). -/
def clearSecondary (p : Ppu) : Ppu :=
  { p with sec := Vector.replicate 8 { y := 0xFF, tile := 0xFF, attr := 0xFF, x := 0xFF }, secCount := 0,
           secHas0 := false }

/-- "Y-range intersects the next scanline" (R362): `0 <= n - y < H` on integers. -/
def inRange (n y h : Nat) : Bool := decide (y ≤ n ∧ n < y + h)

/-- One entry of the phase-2 scan on line `n` (R362). -/
def scanEntry (m : Memory) (n i : Nat) (p : Ppu) : Ppu :=
  let e := m.sprite i
  if inRange n e.y.toNat p.spriteHeight then
    if p.secCount < 8 then
      { p with sec := p.sec.setIfInBounds p.secCount e, secHas0 := p.secHas0 || i == 0, secCount := p.secCount + 1 }
    else { p with overflow := true }
  else p

/-- The last `k` of the 64 entries of the phase-2 scan, in index order (R362). -/
def scanEntries (m : Memory) (n : Nat) : Nat → Ppu → Ppu
  | 0, p => p
  | k + 1, p => scanEntries m n k (scanEntry m n (64 - (k + 1)) p)

/-- The row of sprite `e` on line `n` that will show on line `n + 1`, its low four bits (R366). -/
def spriteRow (h n : Nat) (e : Sprite) : BitVec 4 :=
  let row : BitVec 4 := BitVec.ofNat 4 n - e.y.setWidth 4
  if e.attr.getLsbD 7 then BitVec.ofNat 4 (h - 1) - row else row

/-- The address of the low plane of a sprite's row (R366). -/
def Ppu.spritePatternAddr (p : Ppu) (n : Nat) (e : Sprite) : PpuAddr :=
  if p.ctrl.getLsbD 5 then
    let row := spriteRow 16 n e
    0#1 ++ e.tile.extractLsb' 0 1 ++ (e.tile.extractLsb' 1 7 ++ row.extractLsb' 3 1 : Byte) ++ 0#1 ++ row.extractLsb' 0 3
  else
    let row := spriteRow 8 n e
    0#1 ++ bit (p.ctrl.getLsbD 3) ++ e.tile ++ 0#1 ++ row.extractLsb' 0 3

/-- The sprite pattern fetch (R366), flipped horizontally where the sprite asks for it (R367). -/
def Ppu.loadSprite (p : Ppu) (c : Cartridge) (m : Memory) (n : Nat) (e : Sprite) : LineSprite :=
  let addr := p.spritePatternAddr n e
  let lo := ppuRead c m addr
  let hi := ppuRead c m (addr + 8)
  if e.attr.getLsbD 6 then { lo := rev8 lo, hi := rev8 hi, attr := e.attr, xpos := e.x }
  else { lo := lo, hi := hi, attr := e.attr, xpos := e.x }

/-- Phase 3 on a visible line `n` (R365): slots at or beyond the count keep their old contents. -/
def loadLine (c : Cartridge) (m : Memory) (n : Nat) (p : Ppu) : Ppu :=
  { p with
    line := Vector.ofFn fun j : Fin 8 => if j.val < p.secCount then p.loadSprite c m n p.sec[j] else p.line[j]
    lineCount := p.secCount
    lineHas0 := p.secHas0 }

/-- `SpriteDot(s, d)` (R345, R360, R365). A `PRE_RENDER_LINE` of 0 to 239 is both a visible and the pre-render line, where R360
and R365 disagree: the pre-render branch goes first, with no sprite phase. DESIGN CHOICE, log entry 25; never with the spec's
261. -/
def spriteDot (k : Params) (c : Cartridge) (m : Memory) (sl d : Nat) (p : Ppu) : Ppu :=
  if sl = k.preRenderLine then
    if d = 320 then { p with lineCount := 0, lineHas0 := false } else p
  else if d = 64 then clearSecondary p
  else if d = 256 then scanEntries m sl 64 p
  else if d = 320 then loadLine c m sl p
  else p

/-! ### Pixels (R358, R368 to R373) -/

/-- `bgp` at column `x` (R358). -/
def Ppu.bgPixel (p : Ppu) (x : Nat) : BitVec 2 :=
  if !p.mask.getLsbD 3 || (decide (x < 8) && !p.mask.getLsbD 1) then 0
  else bit (p.bgHi.getLsbD (15 - p.x.toNat)) ++ bit (p.bgLo.getLsbD (15 - p.x.toNat))

/-- `bgpal` (R358). -/
def Ppu.bgPalette (p : Ppu) : BitVec 2 :=
  bit (p.atHi.getLsbD (15 - p.x.toNat)) ++ bit (p.atLo.getLsbD (15 - p.x.toNat))

/-- The 2-bit value of a sprite of the line at column `x`, 0 outside its 8 columns (R368). -/
def LineSprite.pixel (q : LineSprite) (x : Nat) : BitVec 2 :=
  if q.xpos.toNat ≤ x ∧ x ≤ q.xpos.toNat + 7 then
    let off := x - q.xpos.toNat
    bit (q.hi.getLsbD (7 - off)) ++ bit (q.lo.getLsbD (7 - off))
  else 0

/-- The lowest-numbered opaque sprite of a list of sprites numbered from `j`, with its number (R368). -/
def firstOpaque (x : Nat) : Nat → List LineSprite → Option (Nat × LineSprite)
  | _, [] => none
  | j, q :: rest => if q.pixel x = 0 then firstOpaque x (j + 1) rest else some (j, q)

/-- `sj` and its sprite at column `x` (R368). -/
def Ppu.spriteAt (p : Ppu) (x : Nat) : Option (Nat × LineSprite) :=
  if p.mask.getLsbD 4 && !(decide (x < 8) && !p.mask.getLsbD 2) then
    firstOpaque x 0 (p.line.toList.take p.lineCount)
  else none

/-- The palette entry of an opaque sprite (R370). -/
def spriteEntry (q : LineSprite) (x : Nat) : BitVec 5 := 1#1 ++ q.attr.extractLsb' 0 2 ++ q.pixel x

/-- The palette entry of an opaque background pixel (R370). -/
def bgEntry (pal bgp : BitVec 2) : BitVec 5 := 0#1 ++ pal ++ bgp

/-- The pixel multiplexer: the palette entry index (R370). -/
def Ppu.paletteEntry (p : Ppu) (x : Nat) : BitVec 5 :=
  let bgp := p.bgPixel x
  match p.spriteAt x with
  | none => if bgp = 0 then 0 else bgEntry p.bgPalette bgp
  | some (_, q) =>
    if bgp = 0 then spriteEntry q x
    else if q.attr.getLsbD 5 then bgEntry p.bgPalette bgp
    else spriteEntry q x

/-- The sprite-0 hit condition at column `x` (R371). -/
def Ppu.hitsSprite0 (p : Ppu) (x : Nat) : Bool :=
  match p.spriteAt x with
  | none => false
  | some (j, _) =>
    (p.bgPixel x != 0) && j == 0 && p.lineHas0 && p.mask.getLsbD 3 && p.mask.getLsbD 4 && x != 255

/-- `EmitPixel(x, y)` (R372, R373). -/
def emitPixel (m : Memory) (x y : Nat) (p : Ppu) : Ppu :=
  let idx := if p.rendering then p.paletteEntry x else 0
  let c := m.palCell (palIndex (0x3F00 ||| idx.setWidth 14))
  let colour := if p.mask.getLsbD 0 then c &&& 0x30 else c
  { p with
    s0hit := p.s0hit || (p.rendering && p.hitsSprite0 x)
    pixel := some { x := x, y := y, colour := colour, emphasis := p.mask.extractLsb' 5 3 } }

/-! ### The dot -/

/-- `Advance()` (R342); its dots 339 and 340 are the last two of a line, its scanline 261 the last of the frame. -/
def advanceDot (k : Params) (p : Ppu) : Ppu :=
  if p.scanline = k.preRenderLine ∧ p.dot + 2 = k.dotsPerLine ∧ p.odd = true
      ∧ (k.oddSkipRequiresRendering = false ∨ p.rendering = true) then
    { p with dot := 0, scanline := 0, odd := false }
  else if p.dot + 1 = k.dotsPerLine then
    if p.scanline + 1 = k.linesPerFrame then { p with dot := 0, scanline := 0, odd := !p.odd }
    else { p with dot := 0, scanline := p.scanline + 1 }
  else { p with dot := p.dot + 1 }

/-- Vblank start at `VBL_SET` (R343). -/
def vblankStart (s : State) : State :=
  if (s.ppu.scanline, s.ppu.dot) = s.params.vblSet then updateNmi (s.setPpu { s.ppu with vblank := true }) else s

/-- The end of vblank at `VBL_CLEAR` (R344). -/
def vblankEnd (s : State) : State :=
  if (s.ppu.scanline, s.ppu.dot) = s.params.vblClear then
    updateNmi (s.setPpu { s.ppu with vblank := false, s0hit := false, overflow := false })
  else s

/-- The two vblank edges, in the order of R345. -/
def vblankEdges (s : State) : State := vblankEnd (vblankStart s)

/-- The rendering work of a dot: `BgDot` then `SpriteDot` on a render line with rendering on (R345). -/
def renderDot (k : Params) (c : Cartridge) (m : Memory) (p : Ppu) : Ppu :=
  if p.isRendering k then spriteDot k c m p.scanline p.dot (bgDot k c m p.scanline p.dot p) else p

/-- The output of a dot (R345, R372): a pixel at dots 1 to 256 of a visible line, no event otherwise. -/
def outputDot (m : Memory) (p : Ppu) : Ppu :=
  if p.scanline ≤ 239 ∧ 1 ≤ p.dot ∧ p.dot ≤ 256 then emitPixel m (p.dot - 1) p.scanline p else { p with pixel := none }

/-- `PpuDot()` (R340, R345). -/
def ppuDot (s : State) : State :=
  let s := vblankEdges s
  s.setPpu (advanceDot s.params (outputDot s.mem (renderDot s.params s.cart s.mem s.ppu)))

end Sys2Proof.Machine
end

