-- ==== Sys2Proof/Machine/Clock.lean ====
section
/-! DEFINITION. The CPU step with its instruction fetch and interrupt test (30_encoding.md R123), the CPU cycle and the
master tick of the Clock Orchestrator (49_dma_clock.md R401, R402, R408), the instruction-level step of R405 and the
runs made of it (70_reset_and_hazards.md R481), and the reset procedure (R471). -/

namespace Sys2Proof.Machine

/-- Fetch and decode the instruction at PC (R123, R124): the opcode byte, then the operand bytes its format has, in
ascending order, each an ordinary `MemRead` (R81, R103). -/
def fetch (s : State) : Result (Instr × State) :=
  let decoded (bytes : List Byte) (s : State) : Result (Instr × State) :=
    match decode bytes with
    | .ok (i, _) => .next (i, s)
    | .error _ => .fault (.configurationError bytes.head? s.cpu.pc)
  andThen (memRead s.cpu.pc s) fun op =>
    match opcodeLength op.1 with
    | 2 =>
      andThen (memRead (s.cpu.pc + 1) op.2) fun b1 => decoded [op.1, b1.1] b1.2
    | 3 =>
      andThen (memRead (s.cpu.pc + 1) op.2) fun b1 =>
        andThen (memRead (s.cpu.pc + 2) b1.2) fun b2 => decoded [op.1, b1.1, b2.1] b2.2
    | _ => decoded [op.1] op.2

/-- Fetch, decode and execute the instruction at PC. -/
def runInstruction (s : State) : Result State := andThen (fetch s) fun r => exec r.1 r.2

/-- `CpuStep()` (R123, R439): a pending NMI, else an unmasked IRQ, else the instruction at PC. -/
def cpuStep (s : State) : Result State :=
  if s.cpu.nmiPending then nmiEntry s
  else if s.irqLine && !s.cpu.p.i then irqEntry s
  else runInstruction s

/-- `CpuCycle()` (R402): a stall cycle, or a CPU step. -/
def cpuCycle (s : State) : Result State :=
  let s := s.setCyc (s.cpu.cyc + 1)
  if 0 < s.cpu.stall then .next (s.setStall (s.cpu.stall - 1)) else cpuStep s

/-- The end of every master tick: one PPU dot, and the master counter goes on (R401). -/
def endTick (s : State) : State :=
  let s := ppuDot s
  { s with master := s.master + 1 }

/-- The ticks on which the CPU cycle runs: one in `PPU_PER_CPU` (R401). -/
def isCpuTick (s : State) : Bool := s.master % s.params.ppuPerCpu == 0

/-- `MasterTick()` of a machine that is not halted (R401): on a CPU tick the CPU cycle, then the dot. Refused where the
parameters are not admitted (93_implementation_defined.md U9). -/
def runTick (s : State) : Result State :=
  if !s.params.admitted then .refused .parametersNotAdmitted
  else if isCpuTick s then andThen (cpuCycle s) fun s => .next (endTick s)
  else .next (endTick s)

/-- What a fault leaves (R444, R408): the CPU step rolled back, the CPU cycle counted, the machine halted. -/
def haltedBy (f : Fault) (s : State) : State := { s.setCyc (s.cpu.cyc + 1) with halted := .faulted f }

/-- `MasterTick()` as R401 and R408 write it, on states: a fault sets `sys.halted`, and a halted machine does not move.
A refusal, for which the spec gives no successor, is passed on. -/
def masterTick (s : State) : Result State :=
  match s.halted with
  | .faulted _ => .next s
  | .running =>
    match runTick s with
    | .next s' => .next s'
    | .fault f => .next (haltedBy f s)
    | .refused r => .refused r

/-- `k` dots. -/
def ppuDots : Nat → State → State
  | 0, s => s
  | k + 1, s => ppuDots k (ppuDot s)

/-- The machine at its next instruction boundary: the rest of a CPU cycle under way and the stall cycles elapse, each tick with
its dot (R401, R402), so that from reset the `RESET_CYCLES` are counted (DEDUCED, log entry 26). Stops where a step stops. -/
def toBoundary (s : State) : Result State :=
  match s.halted with
  | .faulted f => .fault f
  | .running =>
    if !s.params.admitted then .refused .parametersNotAdmitted
    else
      let k := s.params.ppuPerCpu
      let n := (k - s.master % k) % k + k * s.cpu.stall
      let u := ppuDots n ((s.setStall 0).setCyc (s.cpu.cyc + s.cpu.stall))
      .next { u with master := s.master + n }

/-- The instruction-level step of R405: at the next instruction boundary one CPU step of `n` cycles, then `PPU_PER_CPU * n`
dots, with `cpu.cyc` advanced by `n` and `sys.master` by `PPU_PER_CPU * n`. -/
def boundaryStep (s : State) : Result State :=
  andThen (toBoundary s) fun s =>
    andThen (cpuStep (s.setCyc (s.cpu.cyc + 1))) fun t =>
      let n := t.cpu.stall + 1
      let u := ppuDots (s.params.ppuPerCpu * n) ((t.setStall 0).setCyc (s.cpu.cyc + n))
      .next { u with master := s.master + s.params.ppuPerCpu * n }

/-- A run of `n` CPU steps (R481), interrupt entries counting as steps; a run that faults has no end state. -/
def runSteps : Nat → State → Result State
  | 0, s => .next s
  | n + 1, s => andThen (boundaryStep s) (runSteps n)

/-- From an instruction boundary, at most `n` CPU steps to the first boundary at which PC is `a`; none where `n` steps reach
no such boundary (DEDUCED, log entry 26). -/
def runUntilPc (a : Word) : Nat → State → Result (Option State)
  | 0, s => .next (if s.cpu.pc = a then some s else none)
  | n + 1, s => if s.cpu.pc = a then .next (some s) else andThen (boundaryStep s) (runUntilPc a n)

/-- The second convention of R481: the run of a program that ends in `JMP` to its own address `a` is over at the first
instruction boundary at which PC is `a`. -/
def runToSelfJump (a : Word) (n : Nat) (s : State) : Result (Option State) := andThen (toBoundary s) (runUntilPc a n)

/-- `reset()` between two ticks (R409, R470, R471): everything but the arrays, the configuration and the host's input takes
its reset value, PC the reset vector; the arrays keep their contents. The count of draws goes on, so that no later draw
repeats an earlier one (log entry 13). With a cartridge that is not admitted the machine halts and nothing else changes. -/
def resetMachine (s : State) : State :=
  if s.cart.admitted then
    { State.powerOn s.params s.cart with mem := s.mem, irqLine := s.irqLine, draws := s.draws }
  else { s with halted := .faulted (.unsupportedMapper s.cart.mapperId) }

end Sys2Proof.Machine
end

