-- ==== Sys2Proof/Machine/Loader.lean ====
section
/-! DEFINITION. Placing bytes where the machine fetches, from outside the machine: what loading a program amounts to
(00_scope.md R9, 70_reset_and_hazards.md R480). No instruction uses it. -/

namespace Sys2Proof.Machine

/-- An address whose byte can be placed: the RAM window (R74) or the PRG window (R77). -/
def isStorage (a : Word) : Bool := decide (a ≤ 0x1FFF) || decide (0x8000 ≤ a)

/-- The state with byte `v` at address `a` of the RAM or PRG window; other addresses hold no byte. -/
def placeByte (a : Word) (v : Byte) (s : State) : State :=
  if a ≤ 0x1FFF then ramWrite a v s
  else if 0x8000 ≤ a then
    { s with cart := { s.cart with prg := Cells.putZeroFill s.cart.prg (s.cart.mapCpu a) v } }
  else s

/-- PC, if the three bytes from it on can be placed; else the start of the PRG window. -/
def placeablePc (pc : Word) : Word :=
  if isStorage pc && isStorage (pc + 1) && isStorage (pc + 2) then pc else 0x8000

/-- The machine running, at an instruction boundary on a CPU tick, with no interrupt to take (R123, R401, R402). -/
def atBoundary (s : State) : State :=
  { s with
    cpu := { s.cpu with stall := 0, nmiPending := false, pc := placeablePc s.cpu.pc }
    halted := .running
    master := s.master - s.master % s.params.ppuPerCpu
    irqLine := false }

/-- The three bytes at PC, PC + 1 and PC + 2. -/
def placeBytes (b : Byte × Byte × Byte) (s : State) : State :=
  placeByte (s.cpu.pc + 2) b.2.2 (placeByte (s.cpu.pc + 1) b.2.1 (placeByte s.cpu.pc b.1 s))

end Sys2Proof.Machine
end

