-- ==== Sys2Proof/Machine/Step.lean ====
section
/-! DEFINITION. One step of the machine is one master tick (00_scope.md R17, 49_dma_clock.md R401); and the placing of a
program's next instruction where the machine fetches it. -/

namespace Sys2Proof.Machine

/-- One step: `MasterTick()` (R401). A fault is answered as such, and a halted machine answers its fault again: "a fault
is absorbing" (R444). -/
def step (s : State) : Host.Outcome State Fault Refusal :=
  match s.halted with
  | .faulted f => .fault f
  | .running => runTick s

/-- The state with the instruction of `decodeTableWord nbits w` where the very next step fetches: its three bytes at PC,
PC + 1, PC + 2, the machine at an instruction boundary on a CPU tick with no interrupt to take (`atBoundary`,
`placeBytes`). -/
def State.withFetchWord (s : State) (nbits w : Nat) : State :=
  placeBytes (tableWordBytes nbits w) (atBoundary s)

end Sys2Proof.Machine
end

