-- ==== Sys2Proof/Safety.lean ====
section
/-! DEFINITION. What counts as a safe run, in the terms the statements use: the invariant of the machine, and a step that
neither faults nor is refused. -/

namespace Sys2Proof.Safety

open Sys2Proof.Machine

/-- The scanline and dot counters are bounded: with the spec's parameters "dot ∈ [0,340]" and 262 scanlines (10_state.md
R48, 48_ppu_rendering.md R341). -/
abbrev CountersBounded (s : State) : Prop :=
  s.ppu.scanline < s.params.linesPerFrame ∧ s.ppu.dot < s.params.dotsPerLine

/-- At most eight sprites are selected for a line and drawn on it (R6, R50). -/
abbrev SpritesBounded (s : State) : Prop := s.ppu.secCount ≤ 8 ∧ s.ppu.lineCount ≤ 8

/-- `ppu.nmi_line = ppu.vblank & ppu.ctrl[7]` at all times (R51, R433). -/
abbrev NmiLineFollowsVblank (s : State) : Prop := s.ppu.nmiLine = (s.ppu.vblank && s.ppu.ctrl.getLsbD 7)

/-- Every array is in its canonical form (R52). -/
abbrev MemoryCanonical (s : State) : Prop := s.mem.wf = true ∧ s.cart.wf = true

/-- The invariant every step keeps. -/
abbrev Inv (s : State) : Prop :=
  CountersBounded s ∧ SpritesBounded s ∧ NmiLineFollowsVblank s ∧ MemoryCanonical s

/-- A step that goes on. -/
def StepsOn (s : State) : Prop := ∃ t, step s = .next t

end Sys2Proof.Safety
end

