-- ==== Sys2Proof/Certificates/Slice0/Obligations.lean ====
section
/-! DEFINITION. The statements about the machine, for the provers; and before them, in `Sys2Proof.Spec`, the terms they are
written in: the memory map and the rendering condition on plain numbers, what it means that an operand is read, the
shapes an instruction's rule takes. -/

namespace Sys2Proof.Spec

open Sys2Proof.Machine

/-! ### Addresses (20_memory.md R71) -/

/-- The RAM window, 0x0000 to 0x1FFF. -/
abbrev InRam (a : Word) : Prop := a.toNat ≤ 0x1FFF

/-- The window of the PPU ports, 0x2000 to 0x3FFF. -/
abbrev InPorts (a : Word) : Prop := 0x2000 ≤ a.toNat ∧ a.toNat ≤ 0x3FFF

/-- The hole: 0x4000 to 0x4013 and 0x4015 to 0x7FFF (R78). -/
abbrev InHole (a : Word) : Prop :=
  (0x4000 ≤ a.toNat ∧ a.toNat ≤ 0x4013) ∨ (0x4015 ≤ a.toNat ∧ a.toNat ≤ 0x7FFF)

/-- The PRG window, 0x8000 to 0xFFFF. -/
abbrev InPrg (a : Word) : Prop := 0x8000 ≤ a.toNat

/-- The window of port number `k`. -/
abbrev AtPort (k : Nat) (a : Word) : Prop := InPorts a ∧ a.toNat % 8 = k

/-- "The PPU is rendering" (R317). -/
abbrev Rendering (s : State) : Prop :=
  (s.ppu.mask.getLsbD 3 = true ∨ s.ppu.mask.getLsbD 4 = true) ∧
    (s.ppu.scanline ≤ 239 ∨ s.ppu.scanline = s.params.preRenderLine)

/-- Nothing lies at the address: the hole, under `HOLE_POLICY = fault` (R78). -/
abbrev Unmapped (a : Word) (s : State) : Prop := InHole a ∧ s.params.holePolicy = .fault

/-- A bus read here has a meaning: not an unmapped address, and not the data port while the PPU is rendering. -/
abbrev Readable (a : Word) (s : State) : Prop := ¬Unmapped a s ∧ ¬(AtPort 7 a ∧ Rendering s)

/-- A bus write here is a plain one with a meaning: not an unmapped address, not the DMA port, not ports 4 and 7 while the
PPU is rendering. -/
abbrev Writable (a : Word) (s : State) : Prop :=
  ¬Unmapped a s ∧ a ≠ 0x4014 ∧ ¬((AtPort 4 a ∨ AtPort 7 a) ∧ Rendering s)

/-! ### The end of an instruction -/

/-- `pc + n` modulo 0x10000 (R25). -/
def plus (pc : Word) (n : Nat) : Word := BitVec.ofNat 16 (pc.toNat + n)

/-- PC assigned, and `n` cycles reported: the `n - 1` that follow are stall cycles (R402). -/
def retired (pc : Word) (n : Nat) (s : State) : State := { s with cpu := { s.cpu with pc := pc, stall := n - 1 } }

/-- `SetZN` on numbers (R14). -/
def withZN (m : Byte) (p : Flags) : Flags := { p with z := decide (m.toNat = 0), n := decide (0x80 ≤ m.toNat) }

/-- The opcode bytes and cycle counts of a mnemonic are those of `table`, and it has no other; the counts are those of the
spec's `CYC`. -/
def Encodings (mn : Mnemonic) (table : List (Mode × Byte × Nat)) : Prop :=
  mn.entries.map (fun e => (e.mode, e.opcode, e.cycles)) = table ∧ ∀ e ∈ table, Params.spec.cycles e.2.1 = e.2.2

/-- The base cycles that `CYC` gives the opcode of a mode in such a table: with the spec's parameters, the table's count. -/
def baseCycles (k : Params) (table : List (Mode × Byte × Nat)) (mode : Mode) : Nat :=
  ((table.lookup mode).map fun e => k.cycles e.1).getD 0

/-! ### Operands -/

/-- The operand of a reading instruction is `m`: the immediate, or the byte at the effective address, whose bus read left
`t`; `px` is the page-cross bit. -/
def ReadsOperand (o : Operand) (s : State) (m : Byte) (px : Bool) (t : State) : Prop :=
  match o with
  | .imm b => m = b ∧ px = false ∧ t = s
  | o => ∃ e, effective o s = .next (e, s) ∧ e.px = px ∧ memRead e.ea s = .next (m, t)

/-- The operand of a reading instruction can be read. -/
def OperandReadable (o : Operand) (s : State) : Prop :=
  match o with
  | .imm _ => True
  | o => ∃ e, effective o s = .next (e, s) ∧ Readable e.ea s

/-- What an instruction that reads an 8-bit operand `m` and changes the CPU by `effect m` does from one state: what it does
where the operand can be read (the read itself leaves the CPU as it was), the fault in the hole. -/
def ReadingStep (i : Operand → Instr) (table : List (Mode × Byte × Nat)) (effect : Byte → Cpu → Cpu) (s : State)
    (o : Operand) : Prop :=
  (OperandReadable o s → ∃ m px t, ReadsOperand o s m px t ∧ t.cpu = s.cpu ∧
    exec (i o) s = .next (retired (plus s.cpu.pc o.mode.length) (baseCycles s.params table o.mode + px.toNat)
      { t with cpu := effect m t.cpu })) ∧
  (∀ e, effective o s = .next (e, s) → Unmapped e.ea s →
    exec (i o) s = .fault (.addressOutOfRange e.ea .read s.cpu.pc))

/-- The rule of such an instruction: its encodings and cycles, and the step from every state. -/
def ReadingRule (i : Operand → Instr) (mn : Mnemonic) (table : List (Mode × Byte × Nat))
    (effect : Byte → Cpu → Cpu) : Prop :=
  Encodings mn table ∧ ∀ s o, (i o).wellFormed = true → ReadingStep i table effect s o

/-- The rule of ADC and SBC: the same, but for the refusal where `DECIMAL_ENABLED` is true and D is set (R240, U12). -/
def BinaryRule (i : Operand → Instr) (mn : Mnemonic) (table : List (Mode × Byte × Nat))
    (effect : Byte → Cpu → Cpu) : Prop :=
  Encodings mn table ∧ ∀ s o, (i o).wellFormed = true →
    if s.params.decimalEnabled = true ∧ s.cpu.p.d = true then exec (i o) s = .refused .decimalArithmetic
    else ReadingStep i table effect s o

/-- What a bus write leaves of the CPU: all but the NMI latch, which a write of the control port may set (R306). -/
def CpuKept (c d : Cpu) : Prop := d = { c with nmiPending := d.nmiPending }

/-- The rule of an instruction that stores the byte `value`: its encodings and cycles, the store where it can be made, the
fault in the hole. -/
def StoringRule (i : Operand → Instr) (mn : Mnemonic) (table : List (Mode × Byte × Nat))
    (value : Cpu → Byte) : Prop :=
  Encodings mn table ∧
  ∀ s o, (i o).wellFormed = true → ∃ e, effective o s = .next (e, s) ∧
    (Writable e.ea s → ∃ t, memWrite e.ea (value s.cpu) s = .next t ∧ CpuKept s.cpu t.cpu ∧
      exec (i o) s = .next (retired (plus s.cpu.pc o.mode.length) (baseCycles s.params table o.mode) t)) ∧
    (Unmapped e.ea s → exec (i o) s = .fault (.addressOutOfRange e.ea .write s.cpu.pc))

/-- The rule of a read-modify-write of memory: one read of the effective address, one write there of `result`, the flags
`flags`, both from the byte read and the old flags. -/
def ModifyingRule (i : Operand → Instr) (mn : Mnemonic) (table : List (Mode × Byte × Nat))
    (result : Byte → Flags → Byte) (flags : Byte → Flags → Flags) : Prop :=
  Encodings mn table ∧
  ∀ s o, (i o).wellFormed = true → o ≠ .acc → ∃ e, effective o s = .next (e, s) ∧
    (Readable e.ea s → Writable e.ea s → ∃ m t u, memRead e.ea s = .next (m, t) ∧
      memWrite e.ea (result m s.cpu.p) t = .next u ∧ CpuKept s.cpu u.cpu ∧
      exec (i o) s = .next (retired (plus s.cpu.pc o.mode.length) (baseCycles s.params table o.mode)
        { u with cpu := { u.cpu with p := flags m s.cpu.p } })) ∧
    (Unmapped e.ea s → exec (i o) s = .fault (.addressOutOfRange e.ea .read s.cpu.pc))

/-- The base cycles of an instruction: `CYC` of the opcode byte it is encoded with. -/
def encodedCycles (k : Params) (i : Instr) : Nat := k.cycles ((encode i).headD 0)

/-- A store of `value` to 0x4014: an OAM DMA of page `value`, and 513 cycles more (`DMA_BASE_CYCLES`), or 514 where the
transfer begins on an odd-numbered cycle (R411). -/
def StoringDma (i : Operand → Instr) (value : Cpu → Byte) : Prop :=
  ∀ (s : State) (o : Operand) (e : Effective), (i o).wellFormed = true → effective o s = .next (e, s) → e.ea = 0x4014 →
    let n := encodedCycles s.params (i o)
    exec (i o) s = andThen (oamDma (value s.cpu) s) fun t =>
      .next (retired (plus s.cpu.pc o.mode.length) (n + s.params.dmaBaseCycles + (s.cpu.cyc + n) % 2) t)

/-- The same of a read-modify-write: the byte read there is a free value `m`, `result m` is the page. -/
def ModifyingDma (i : Operand → Instr) (result : Byte → Flags → Byte) (flags : Byte → Flags → Flags) : Prop :=
  ∀ (s : State) (o : Operand) (e : Effective), (i o).wellFormed = true → effective o s = .next (e, s) → e.ea = 0x4014 →
    let n := encodedCycles s.params (i o)
    ∃ m t, memRead 0x4014 s = .next (m, t) ∧
      exec (i o) s = andThen (oamDma (result m s.cpu.p) t) fun u =>
        .next (retired (plus s.cpu.pc o.mode.length) (n + s.params.dmaBaseCycles + (s.cpu.cyc + n) % 2)
          { u with cpu := { u.cpu with p := flags m s.cpu.p } })

/-- The rule of a one-byte instruction that changes the CPU by `effect` and nothing else; `cycles` is the spec's count. -/
def ImpliedRule (i : Instr) (opcode : Byte) (cycles : Nat) (effect : Cpu → Cpu) : Prop :=
  decode [opcode] = .ok (i, []) ∧ Params.spec.cycles opcode = cycles ∧
  ∀ s, exec i s = .next (retired (plus s.cpu.pc 1) (s.params.cycles opcode) { s with cpu := effect s.cpu })

/-- The rule of a conditional branch: the target is relative to the address of the next instruction; 2 cycles not taken
(`CYC`), one more taken, two more taken into another page (R132, R264). -/
def BranchRule (i : Byte → Instr) (opcode : Byte) (cond : Flags → Bool) : Prop :=
  Params.spec.cycles opcode = 2 ∧
  ∀ (s : State) (offset : Byte),
    let n := s.params.cycles opcode
    let next := (s.cpu.pc.toNat + 2) % 0x10000
    let target := ((s.cpu.pc.toNat : Int) + 2 + offset.toInt) % 0x10000
    decode [opcode, offset] = .ok (i offset, []) ∧
    exec (i offset) s = .next (
      if cond s.cpu.p then
        retired (BitVec.ofNat 16 target.toNat) (if target.toNat / 256 = next / 256 then n + 1 else n + 2) s
      else retired (BitVec.ofNat 16 next) n s)

/-! ### The stack and the arrays -/

/-- The `ram` index of the stack byte `k` above SP, modulo 256 (R13, R24). -/
def stackIndex (s : State) (k : Nat) : Nat := 0x100 + (s.cpu.sp.toNat + k) % 256

/-- `t` is `s` but for its CPU and its `ram`, whose bytes are those of `s` where `written` gives none. -/
structure RamWrites (s t : State) (written : Nat → Option Byte) : Prop where
  ram : ∀ i, t.mem.ramByte i = (written i).getD (s.mem.ramByte i)
  others : t.mem.vram = s.mem.vram ∧ t.mem.oam = s.mem.oam ∧ t.mem.pal = s.mem.pal ∧ t.mem.hole = s.mem.hole
  rest : t = { s with cpu := t.cpu, mem := t.mem }

/-- The three bytes an interrupt pushes, the last one lowest (R440). -/
def threePushed (s : State) (ret : Word) (status : Byte) (i : Nat) : Option Byte :=
  if i = stackIndex s 0 then some (BitVec.ofNat 8 (ret.toNat / 256))
  else if i = stackIndex s 255 then some (BitVec.ofNat 8 (ret.toNat % 256))
  else if i = stackIndex s 254 then some status
  else none

/-- The status byte with bit 5 set and bit 4 as given (R27, R440). -/
def statusByte (bit4 : Bool) (p : Flags) : Byte :=
  BitVec.ofNat 8 (p.n.toNat * 128 + p.v.toNat * 64 + 32 + bit4.toNat * 16 + p.d.toNat * 8 + p.i.toNat * 4 +
    p.z.toNat * 2 + p.c.toNat)

/-- The flags a status byte restores: bits 5 and 4 are ignored (R27, R220). -/
def restored (b : Byte) (p : Flags) : Flags :=
  { n := decide (b.toNat / 128 % 2 = 1), v := decide (b.toNat / 64 % 2 = 1), b := p.b,
    d := decide (b.toNat / 8 % 2 = 1), i := decide (b.toNat / 4 % 2 = 1), z := decide (b.toNat / 2 % 2 = 1),
    c := decide (b.toNat % 2 = 1) }

/-- A word of the cartridge, low byte first: a vector (R79). -/
def vectorWord (s : State) (a : Word) : Word :=
  BitVec.ofNat 16 ((s.cart.prgByte (((a + 1).toNat - 0x8000) % s.cart.prgSize)).toNat * 256 +
    (s.cart.prgByte ((a.toNat - 0x8000) % s.cart.prgSize)).toNat)

/-- No byte of any array, and nothing of the configuration, differs. -/
def SameBytes (s t : State) : Prop :=
  (∀ i, t.mem.ramByte i = s.mem.ramByte i) ∧ (∀ i, t.mem.vramByte i = s.mem.vramByte i) ∧
    (∀ i, t.mem.oamByte i = s.mem.oamByte i) ∧ (∀ i, t.mem.palCell i = s.mem.palCell i) ∧
    (∀ i, t.mem.holeByte i = s.mem.holeByte i) ∧ t.cart = s.cart ∧ t.params = s.params

/-! ### Classes of instructions -/

/-- The instructions that write A (R21). -/
def writesA : Instr → Bool
  | .lda _ | .pla | .txa | .tya | .adc _ | .sbc _ | .and _ | .ora _ | .eor _ => true
  | .asl o | .lsr o | .rol o | .ror o => o == .acc
  | _ => false

/-- The instructions that write X (R22). -/
def writesX : Instr → Bool
  | .ldx _ | .tax | .tsx | .inx | .dex => true
  | _ => false

/-- The instructions that write Y (R23). -/
def writesY : Instr → Bool
  | .ldy _ | .tay | .iny | .dey => true
  | _ => false

/-- The instructions that write SP (R24). -/
def writesSp (i : Instr) : Bool :=
  match i with
  | .jsr _ => true
  | i => [Instr.txs, .pha, .php, .pla, .plp, .rts, .brk, .rti].contains i

/-- The instructions that write C (R28). -/
def writesC : Instr → Bool
  | .adc _ | .sbc _ | .cmp _ | .cpx _ | .cpy _ | .asl _ | .lsr _ | .rol _ | .ror _ | .sec | .clc | .plp | .rti => true
  | _ => false

/-- The instructions that write Z and N (R29, R34). -/
def writesZN : Instr → Bool
  | .lda _ | .ldx _ | .ldy _ | .tax | .tay | .txa | .tya | .tsx | .pla | .adc _ | .sbc _ | .and _ | .ora _ | .eor _ => true
  | .inc _ | .inx | .iny | .dec _ | .dex | .dey | .asl _ | .lsr _ | .rol _ | .ror _ => true
  | .cmp _ | .cpx _ | .cpy _ | .bit _ | .plp | .rti => true
  | _ => false

/-- The instructions that write V (R33). -/
def writesV : Instr → Bool
  | .adc _ | .sbc _ | .bit _ | .clv | .plp | .rti => true
  | _ => false

/-- The instructions that write D (R31). -/
def writesD : Instr → Bool
  | .sed | .cld | .plp | .rti => true
  | _ => false

/-- The instructions that write I (R30). -/
def writesI : Instr → Bool
  | .sei | .cli | .brk | .plp | .rti => true
  | _ => false

/-- The instructions that store to the bus or push. -/
def storesOrPushes (i : Instr) : Bool :=
  match i with
  | .sta _ | .stx _ | .sty _ | .inc _ | .dec _ | .jsr _ => true
  | .asl o | .lsr o | .rol o | .ror o => o != .acc
  | i => [Instr.pha, .php, .brk].contains i

/-! ### Runs -/

/-- `k` master ticks that all go on. -/
def Ticks : Nat → State → State → Prop
  | 0, s, t => t = s
  | k + 1, s, t => ∃ u, step s = .next u ∧ Ticks k u t

/-- The machine at an instruction boundary, about to run a CPU cycle. -/
abbrev AtBoundary (s : State) : Prop :=
  s.halted = .running ∧ s.params.admitted = true ∧ s.master % s.params.ppuPerCpu = 0 ∧ s.cpu.stall = 0

/-- The machine at an instruction boundary with no interrupt to take (R123). -/
abbrev AboutToFetch (s : State) : Prop :=
  AtBoundary s ∧ s.cpu.nmiPending = false ∧ (s.irqLine = true → s.cpu.p.i = true)

/-- Bus reads from address `a` on, one byte after the other, give `bytes` and lead from `s` to `t` (R123). -/
def FetchReads : List Byte → Word → State → State → Prop
  | [], _, s, t => t = s
  | b :: bytes, a, s, t => ∃ u, memRead a s = .next (b, u) ∧ FetchReads bytes (plus a 1) u t

/-- A sprite flag as the vblank edge of the dot leaves it: cleared at `VBL_CLEAR` (R344). -/
def afterEdge (s : State) (flag : Bool) : Bool :=
  flag && !(s.params.vblClear == (s.ppu.scanline, s.ppu.dot))

/-- The dot belongs to the sprite work of a visible line (R360). -/
abbrev VisibleWork (s : State) : Prop := Rendering s ∧ s.ppu.scanline ≠ s.params.preRenderLine

/-- The byte at an address of the RAM window, of the array behind the hole, or of the PRG window. -/
def storedByte (a : Word) (s : State) : Byte :=
  if a.toNat ≤ 0x1FFF then s.mem.ramByte (a.toNat % 2048)
  else if a.toNat ≤ 0x7FFF then s.mem.holeByte (a.toNat % 0x4000)
  else s.cart.prgByte ((a.toNat - 0x8000) % s.cart.prgSize)

/-- The three bytes at PC, in the RAM or the PRG window, are a `JMP` to PC (R481). -/
abbrev AtSelfJump (s : State) : Prop :=
  (∀ k, k < 3 → InRam (plus s.cpu.pc k) ∨ InPrg (plus s.cpu.pc k)) ∧
    (List.range 3).map (fun k => storedByte (plus s.cpu.pc k) s) =
      [0x4C, BitVec.ofNat 8 (s.cpu.pc.toNat % 256), BitVec.ofNat 8 (s.cpu.pc.toNat / 256)]

end Sys2Proof.Spec

open Sys2Proof Sys2Proof.Machine Sys2Proof.Spec

/-! ## Encoding (30_encoding.md) -/

/-- The decoder reads back what the encoder writes: every well-formed instruction, every operand value, whatever bytes
follow; and the encoding has the length R122 gives the addressing mode. -/
def Obligations.DecodeOfEncodeIsTheInstruction : Prop :=
  ∀ (i : Instr) (rest : List Byte), i.wellFormed = true →
    decode (encode i ++ rest) = .ok (i, rest) ∧ (encode i).length = i.length ∧
      1 ≤ i.length ∧ i.length ≤ 3

/-- The encoder writes back what the decoder read: no two byte sequences are one instruction, no bit is dropped. -/
def Obligations.EncodeOfDecodeIsTheBytes : Prop :=
  ∀ (bytes rest : List Byte) (i : Instr), decode bytes = .ok (i, rest) →
    i.wellFormed = true ∧ encode i ++ rest = bytes

/-- The decoder refuses a byte sequence only where bytes are missing: the opcode alone decides how many are needed, and
every value of the operand bytes is legal (R122, R161). That an undefined opcode byte decodes, to the instruction whose
meaning is the fault, where R124 raises the fault inside `Decode`, is the model's choice, log entry 16. -/
def Obligations.DecodingFailsOnlyForMissingBytes : Prop :=
  ∀ (op : Byte) (rest : List Byte),
    (∃ r, decode (op :: rest) = .ok r) ↔ opcodeLength op ≤ rest.length + 1

/-- Words written out from the spec's encodings decode to the instructions they stand for (R121, R152, R165); the last one
is an undefined byte (R160), which decodes to the instruction that names it: the model's choice, log entry 16. -/
def Obligations.SampleWordsDecode : Prop :=
  decode [0xA5, 0x10] = .ok (.lda (.zp 0x10), []) ∧
  decode [0xBD, 0x34, 0x12] = .ok (.lda (.abx 0x1234), []) ∧
  decode [0x91, 0x10] = .ok (.sta (.izy 0x10), []) ∧
  decode [0x96, 0x10] = .ok (.stx (.zpy 0x10), []) ∧
  decode [0xAA] = .ok (.tax, []) ∧
  decode [0x08] = .ok (.php, []) ∧
  decode [0x69, 0x50] = .ok (.adc (.imm 0x50), []) ∧
  decode [0xE1, 0x10] = .ok (.sbc (.izx 0x10), []) ∧
  decode [0xDE, 0x34, 0x12] = .ok (.dec (.abx 0x1234), []) ∧
  decode [0x2C, 0x02, 0x20] = .ok (.bit (.abs 0x2002), []) ∧
  decode [0x0A] = .ok (.asl .acc, []) ∧
  decode [0x6C, 0x34, 0x12] = .ok (.jmp (.ind 0x1234), []) ∧
  decode [0x20, 0x10, 0x80] = .ok (.jsr 0x8010, []) ∧
  decode [0xD0, 0xFB] = .ok (.bne 0xFB, []) ∧
  decode [0x00] = .ok (.brk, []) ∧
  decode [0xEA] = .ok (.nop, []) ∧
  decode [0x89, 0x12] = .ok (.undefinedOpcode 0x89, [0x12])

/-- The bytes R160 lists, and no others, are undefined; they are 105; decoding one gives the instruction whose meaning is
the fatal `ConfigurationError`, with nothing changed (R124, R160, R443; the spec's decision D13). That the fault is raised
by the meaning of an instruction `undefinedOpcode`, where R124 raises it inside `Decode`, is the model's choice, log
entry 16. -/
def Obligations.UndefinedOpcodesFault : Prop :=
  (∀ (op : Byte) (rest : List Byte), op ∈ undefinedOpcodes ↔ decode (op :: rest) = .ok (.undefinedOpcode op, rest)) ∧
  undefinedOpcodes.length = 105 ∧ undefinedOpcodes.Nodup ∧
  ∀ (op : Byte) (s : State), exec (.undefinedOpcode op) s = .fault (.configurationError (some op) s.cpu.pc)

/-- A step runs the decoded instruction (R123, R401, R402): at an instruction boundary with no interrupt to take a step counts
the CPU cycle, reads the bytes of the instruction at PC one after the other, each an ordinary bus read (R81), executes the
instruction they decode to in the state the reads left, and then performs the PPU dot and counts the tick. Bytes in the
RAM or the PRG window are read without an effect. Where the bytes read so far are no whole instruction and the next one
lies in the hole the step faults (R78, R445), and at the data port while the PPU is rendering it is refused (R317). The
tick order is the spec's decision D19. -/
def Obligations.StepRunsTheDecodedInstruction : Prop :=
  ∀ (s : State), AboutToFetch s →
    let counted : State := { s with cpu := { s.cpu with cyc := s.cpu.cyc + 1 } }
    let executed (i : Instr) (t : State) : Result State :=
      andThen (exec i t) fun u => .next { ppuDot u with master := (ppuDot u).master + 1 }
    (∀ (i : Instr) (bytes : List Byte) (t : State), decode bytes = .ok (i, []) →
      FetchReads bytes s.cpu.pc counted t → step s = executed i t) ∧
    (∀ i : Instr, (∀ k, k < i.length → InRam (plus s.cpu.pc k) ∨ InPrg (plus s.cpu.pc k)) →
      decode ((List.range i.length).map fun k => storedByte (plus s.cpu.pc k) s) = .ok (i, []) →
      step s = executed i counted) ∧
    (∀ (bytes : List Byte) (t : State), (∀ r, decode bytes ≠ .ok r) → FetchReads bytes s.cpu.pc counted t →
      let next := plus s.cpu.pc bytes.length
      (Unmapped next t → step s = .fault (.addressOutOfRange next .read s.cpu.pc)) ∧
      (AtPort 7 next → Rendering t → step s = .refused (.portAccessWhileRendering 7)))

/-! ## Addressing modes (30_encoding.md R129 to R138) -/

/-- The effective address and the page-cross bit of every memory mode but JMP's, by arithmetic on numbers, and the length;
none of them changes the state. The pointers of the indirect modes lie in page zero and wrap inside it. The index sums, the
wraps and the pointer reads are the spec's decision D10. -/
def Obligations.EffectiveAddresses : Prop :=
  ∀ (s : State) (b : Byte) (w : Word),
    let x := s.cpu.x.toNat
    let y := s.cpu.y.toNat
    let pointer (z : Nat) : Nat :=
      (s.mem.ramByte ((z + 1) % 256)).toNat * 256 + (s.mem.ramByte (z % 256)).toNat
    let plain (ea : Nat) : Result (Effective × State) := .next (⟨BitVec.ofNat 16 ea, false⟩, s)
    let crossing (base index : Nat) : Result (Effective × State) :=
      .next (⟨BitVec.ofNat 16 ((base + index) % 0x10000),
        decide ((base + index) % 0x10000 / 256 ≠ base / 256)⟩, s)
    effective (.zp b) s = plain b.toNat ∧
    effective (.zpx b) s = plain ((b.toNat + x) % 256) ∧
    effective (.zpy b) s = plain ((b.toNat + y) % 256) ∧
    effective (.abs w) s = plain w.toNat ∧
    effective (.abx w) s = crossing w.toNat x ∧
    effective (.aby w) s = crossing w.toNat y ∧
    effective (.izx b) s = plain (pointer ((b.toNat + x) % 256)) ∧
    effective (.izy b) s = crossing (pointer b.toNat) y ∧
    (∀ o ∈ [Operand.zp b, .zpx b, .zpy b, .izx b, .izy b], o.mode.length = 2) ∧
    (∀ o ∈ [Operand.abs w, .abx w, .aby w], o.mode.length = 3)

/-! ## Load and store (40_load_store.md) -/

/-- LDA, LDX and LDY (R201, R202, R203). -/
def Obligations.LoadsSetTheRegisterAndZN : Prop :=
  ReadingRule .lda .lda
    [(.imm, 0xA9, 2), (.zp, 0xA5, 3), (.zpx, 0xB5, 4), (.abs, 0xAD, 4), (.abx, 0xBD, 4), (.aby, 0xB9, 4),
      (.izx, 0xA1, 6), (.izy, 0xB1, 5)]
    (fun m c => { c with a := m, p := withZN m c.p }) ∧
  ReadingRule .ldx .ldx [(.imm, 0xA2, 2), (.zp, 0xA6, 3), (.zpy, 0xB6, 4), (.abs, 0xAE, 4), (.aby, 0xBE, 4)]
    (fun m c => { c with x := m, p := withZN m c.p }) ∧
  ReadingRule .ldy .ldy [(.imm, 0xA0, 2), (.zp, 0xA4, 3), (.zpx, 0xB4, 4), (.abs, 0xAC, 4), (.abx, 0xBC, 4)]
    (fun m c => { c with y := m, p := withZN m c.p })

/-- STA, STX and STY (R204, R205, R206): no flag, no register but PC, a fixed cycle count. (Stores to 0x4014:
`StoresToTheDmaPort`.) -/
def Obligations.StoresWriteTheRegister : Prop :=
  StoringRule .sta .sta
    [(.zp, 0x85, 3), (.zpx, 0x95, 4), (.abs, 0x8D, 4), (.abx, 0x9D, 5), (.aby, 0x99, 5), (.izx, 0x81, 6),
      (.izy, 0x91, 6)] (fun c => c.a) ∧
  StoringRule .stx .stx [(.zp, 0x86, 3), (.zpy, 0x96, 4), (.abs, 0x8E, 4)] (fun c => c.x) ∧
  StoringRule .sty .sty [(.zp, 0x84, 3), (.zpx, 0x94, 4), (.abs, 0x8C, 4)] (fun c => c.y)

/-- The frame of the storing forms (STA, STX, STY, and INC, DEC, ASL, LSR, ROL, ROR on memory): A, X, Y, SP and the flags
they do not write stay; every byte of `ram` outside the one at the effective address stays, and so does every byte of the
other arrays unless the address is a port that writes them; the PPU and the NMI latch stay unless the address is a port or
starts a DMA. The address is the one `effective` gives. Of the array behind the hole only the byte of that address may change,
and only with `HOLE_POLICY = ram`; its layout, the address modulo 0x4000, is the model's choice, log entry 24. -/
def Obligations.StoringFormsChangeOnlyTheStoredByte : Prop :=
  ∀ (s t : State) (o : Operand) (i : Instr) (e : Effective),
    i ∈ [Instr.sta o, .stx o, .sty o, .inc o, .dec o, .asl o, .lsr o, .rol o, .ror o] → o ≠ .acc →
    effective o s = .next (e, s) → exec i s = .next t →
    (t.cpu.a = s.cpu.a ∧ t.cpu.x = s.cpu.x ∧ t.cpu.y = s.cpu.y ∧ t.cpu.sp = s.cpu.sp ∧ t.cpu.cyc = s.cpu.cyc) ∧
    (t.cpu.p.d = s.cpu.p.d ∧ t.cpu.p.i = s.cpu.p.i ∧ t.cpu.p.b = s.cpu.p.b ∧ t.cpu.p.v = s.cpu.p.v) ∧
    (i ∈ [Instr.inc o, .dec o] → t.cpu.p.c = s.cpu.p.c) ∧
    (i ∈ [Instr.sta o, .stx o, .sty o] → t.cpu.p = s.cpu.p) ∧
    (∀ k, (InRam e.ea → k ≠ e.ea.toNat % 2048) → t.mem.ramByte k = s.mem.ramByte k) ∧
    (∀ k, (InHole e.ea → k ≠ e.ea.toNat % 0x4000) → t.mem.holeByte k = s.mem.holeByte k) ∧
    (¬AtPort 7 e.ea → (∀ k, t.mem.vramByte k = s.mem.vramByte k) ∧ ∀ k, t.mem.palCell k = s.mem.palCell k) ∧
    (¬AtPort 4 e.ea → e.ea ≠ 0x4014 → ∀ k, t.mem.oamByte k = s.mem.oamByte k) ∧
    (¬InPorts e.ea → e.ea ≠ 0x4014 →
      t.ppu = s.ppu ∧ t.draws = s.draws ∧ t.cpu.nmiPending = s.cpu.nmiPending) ∧
    t.cart = s.cart ∧ t.params = s.params ∧ t.halted = s.halted ∧ t.master = s.master ∧ t.irqLine = s.irqLine

/-- The frame of every form that stores nothing: no byte of `ram`, `vram`, `oam`, palette RAM or the hole's array and nothing
of the configuration changes, whatever was read. The array is the model's choice, log entry 24. -/
def Obligations.OtherFormsChangeNoByte : Prop :=
  ∀ (i : Instr) (s t : State), storesOrPushes i = false → exec i s = .next t → SameBytes s t

/-- A store to 0x4014 by any instruction that stores (R76, R410, R411; the cycles are the spec's decision D20): the DMA of
the page named by the byte stored, then the instruction ends with its own registers and flags, 513 or 514 cycles later
(`DMA_BASE_CYCLES`). -/
def Obligations.StoresToTheDmaPort : Prop :=
  let byte (n : Nat) : Byte := BitVec.ofNat 8 n
  let up (m : Byte) (_ : Flags) : Byte := byte ((m.toNat + 1) % 256)
  let down (m : Byte) (_ : Flags) : Byte := byte ((m.toNat + 255) % 256)
  let asl (m : Byte) (_ : Flags) : Byte := byte (m.toNat * 2 % 256)
  let lsr (m : Byte) (_ : Flags) : Byte := byte (m.toNat / 2)
  let rol (m : Byte) (p : Flags) : Byte := byte (m.toNat * 2 % 256 + p.c.toNat)
  let ror (m : Byte) (p : Flags) : Byte := byte (m.toNat / 2 + p.c.toNat * 128)
  let high (m : Byte) : Bool := decide (0x80 ≤ m.toNat)
  let low (m : Byte) : Bool := decide (m.toNat % 2 = 1)
  let plain (result : Byte → Flags → Byte) (m : Byte) (p : Flags) : Flags := withZN (result m p) p
  let carry (result : Byte → Flags → Byte) (out : Byte → Bool) (m : Byte) (p : Flags) : Flags :=
    withZN (result m p) { p with c := out m }
  (StoringDma .sta (fun c => c.a) ∧ StoringDma .stx (fun c => c.x) ∧ StoringDma .sty (fun c => c.y)) ∧
  (ModifyingDma .inc up (plain up) ∧ ModifyingDma .dec down (plain down)) ∧
  (ModifyingDma .asl asl (carry asl high) ∧ ModifyingDma .lsr lsr (carry lsr low) ∧
    ModifyingDma .rol rol (carry rol high) ∧ ModifyingDma .ror ror (carry ror low))

/-- Accesses the spec refuses (R310, R312, R313, R317, its decision D41): while the PPU is rendering, an instruction that
reads its operand at the data port, and one that stores to the OAM-data port or the data port, is refused by name. A read
of the OAM-data port while rendering goes on with a free value (R309): the model's choice, log entry 9. ADC and SBC reach
their operand where `DECIMAL_ENABLED` is false or D is clear. -/
def Obligations.AccessesRefusedWhileRendering : Prop :=
  ∀ (s : State) (o : Operand) (i : Instr) (e : Effective), i.wellFormed = true → effective o s = .next (e, s) →
    Rendering s →
    (i ∈ [Instr.lda o, .ldx o, .ldy o, .adc o, .sbc o, .cmp o, .cpx o, .cpy o, .and o, .ora o, .eor o, .bit o] →
      (i ∈ [Instr.adc o, .sbc o] → s.params.decimalEnabled = false ∨ s.cpu.p.d = false) → AtPort 7 e.ea →
      exec i s = .refused (.portAccessWhileRendering 7)) ∧
    (i ∈ [Instr.sta o, .stx o, .sty o, .inc o, .dec o, .asl o, .lsr o, .rol o, .ror o] →
      (AtPort 4 e.ea → exec i s = .refused (.portAccessWhileRendering 4)) ∧
      (AtPort 7 e.ea → exec i s = .refused (.portAccessWhileRendering 7)))

/-! ## Transfers and the stack (41_transfer_stack.md) -/

/-- TAX, TAY, TXA, TYA, TSX, TXS (R211 to R216): one byte copied, Z and N from it except for TXS, nothing else but PC. -/
def Obligations.TransfersCopyARegister : Prop :=
  ImpliedRule .tax 0xAA 2 (fun c => { c with x := c.a, p := withZN c.a c.p }) ∧
  ImpliedRule .tay 0xA8 2 (fun c => { c with y := c.a, p := withZN c.a c.p }) ∧
  ImpliedRule .txa 0x8A 2 (fun c => { c with a := c.x, p := withZN c.x c.p }) ∧
  ImpliedRule .tya 0x98 2 (fun c => { c with a := c.y, p := withZN c.y c.p }) ∧
  ImpliedRule .tsx 0xBA 2 (fun c => { c with x := c.sp, p := withZN c.sp c.p }) ∧
  ImpliedRule .txs 0x9A 2 (fun c => { c with sp := c.x })

/-- PHA and PHP (R217, R218): one byte written at `0x0100 | SP`, then SP goes down by one modulo 256; the status byte
has bits 5 and 4 set; no flag changes. Bits 5 and 4 of the status byte are the spec's decision D4. -/
def Obligations.PushesWriteTheStack : Prop :=
  (decode [0x48] = .ok (.pha, []) ∧ decode [0x08] = .ok (.php, [])) ∧
  Encodings .pha [(.imp, 0x48, 3)] ∧ Encodings .php [(.imp, 0x08, 3)] ∧
  ∀ (s : State),
    let cpu (n : Nat) : Cpu :=
      { s.cpu with sp := BitVec.ofNat 8 (s.cpu.sp.toNat + 255), pc := plus s.cpu.pc 1, stall := n - 1 }
    (∃ t, exec .pha s = .next t ∧ t.cpu = cpu (s.params.cycles 0x48) ∧
      RamWrites s t fun i => if i = stackIndex s 0 then some s.cpu.a else none) ∧
    (∃ t, exec .php s = .next t ∧ t.cpu = cpu (s.params.cycles 0x08) ∧
      RamWrites s t fun i => if i = stackIndex s 0 then some (statusByte true s.cpu.p) else none)

/-- PLA and PLP (R219, R220): SP goes up by one modulo 256, then the byte is read; PLA sets Z and N from it, PLP loads the
six flags and leaves B. -/
def Obligations.PullsReadTheStack : Prop :=
  (decode [0x68] = .ok (.pla, []) ∧ decode [0x28] = .ok (.plp, [])) ∧
  Encodings .pla [(.imp, 0x68, 4)] ∧ Encodings .plp [(.imp, 0x28, 4)] ∧
  ∀ (s : State),
    let b := s.mem.ramByte (stackIndex s 1)
    let sp : Byte := BitVec.ofNat 8 (s.cpu.sp.toNat + 1)
    exec .pla s =
      .next (retired (plus s.cpu.pc 1) (s.params.cycles 0x68)
        { s with cpu := { s.cpu with a := b, sp := sp, p := withZN b s.cpu.p } }) ∧
    exec .plp s =
      .next (retired (plus s.cpu.pc 1) (s.params.cycles 0x28)
        { s with cpu := { s.cpu with sp := sp, p := restored b s.cpu.p } })

/-- A pull gives back what the push wrote, for every SP: PHA then PLA restores A and SP, PHP then PLP restores all seven
flags and SP; also when other code ran in between, if it left SP and the pushed byte. -/
def Obligations.PullsUndoPushes : Prop :=
  ∀ (s : State),
    (∃ t, exec .pha s = .next t ∧ ∀ u, u.cpu.sp = t.cpu.sp →
      u.mem.ramByte (stackIndex s 0) = t.mem.ramByte (stackIndex s 0) →
      ∃ v, exec .pla u = .next v ∧ v.cpu.a = s.cpu.a ∧ v.cpu.sp = s.cpu.sp) ∧
    (∃ t, exec .php s = .next t ∧ ∀ u, u.cpu.sp = t.cpu.sp → u.cpu.p.b = s.cpu.p.b →
      u.mem.ramByte (stackIndex s 0) = t.mem.ramByte (stackIndex s 0) →
      ∃ v, exec .plp u = .next v ∧ v.cpu.p = s.cpu.p ∧ v.cpu.sp = s.cpu.sp)

/-! ## Arithmetic (42_arithmetic.md) -/

/-- ADC (R226), on numbers: C is the unsigned outcome, V says that the signed sum lies outside -128 to 127. Binary
whatever D holds, with the spec's `DECIMAL_ENABLED = false`: its decision D2. -/
def Obligations.AdcAddsWithCarry : Prop :=
  BinaryRule .adc .adc
    [(.imm, 0x69, 2), (.zp, 0x65, 3), (.zpx, 0x75, 4), (.abs, 0x6D, 4), (.abx, 0x7D, 4), (.aby, 0x79, 4),
      (.izx, 0x61, 6), (.izy, 0x71, 5)]
    (fun m c =>
      let sum := c.a.toNat + m.toNat + c.p.c.toNat
      let signed := c.a.toInt + m.toInt + c.p.c.toNat
      let r : Byte := BitVec.ofNat 8 (sum % 256)
      { c with a := r, p := withZN r { c.p with c := decide (0xFF < sum), v := decide (signed < -128 ∨ 127 < signed) } })

/-- SBC (R227), on numbers: C = 1 exactly when there is no borrow, V says that the signed difference lies outside -128
to 127. Binary, with the canonical V, where `DECIMAL_ENABLED` is false: the spec's decision D2. -/
def Obligations.SbcSubtractsWithBorrow : Prop :=
  BinaryRule .sbc .sbc
    [(.imm, 0xE9, 2), (.zp, 0xE5, 3), (.zpx, 0xF5, 4), (.abs, 0xED, 4), (.abx, 0xFD, 4), (.aby, 0xF9, 4),
      (.izx, 0xE1, 6), (.izy, 0xF1, 5)]
    (fun m c =>
      let difference : Int := (c.a.toNat : Int) - m.toNat - (1 - c.p.c.toNat)
      let signed := c.a.toInt - m.toInt - (1 - c.p.c.toNat)
      let r : Byte := BitVec.ofInt 8 difference
      { c with a := r, p := withZN r { c.p with c := decide (0 ≤ difference), v := decide (signed < -128 ∨ 127 < signed) } })

/-- The truth table of V by the sign bits (R241): for ADC the sign bits of A, of the operand and of the result; for
SBC the operand's is complemented. The spec derives the table from R226. (With `DECIMAL_ENABLED` true and D set both are
refused: `AdcAddsWithCarry`, `SbcSubtractsWithBorrow`.) -/
def Obligations.OverflowTruthTable : Prop :=
  ∀ (s : State) (m : Byte), s.params.decimalEnabled = false ∨ s.cpu.p.d = false →
    let table (a7 m7 r7 : Bool) : Bool :=
      match a7, m7, r7 with
      | false, false, false => false
      | false, false, true => true
      | false, true, false => false
      | false, true, true => false
      | true, false, false => false
      | true, false, true => false
      | true, true, false => true
      | true, true, true => false
    (∃ t, exec (.adc (.imm m)) s = .next t ∧
      t.cpu.p.v = table (s.cpu.a.getLsbD 7) (m.getLsbD 7) (t.cpu.a.getLsbD 7)) ∧
    (∃ t, exec (.sbc (.imm m)) s = .next t ∧
      t.cpu.p.v = table (s.cpu.a.getLsbD 7) (!m.getLsbD 7) (t.cpu.a.getLsbD 7))

/-- D does not change ADC or SBC (R240) where `DECIMAL_ENABLED` is false: with D set to any value first, each ends in the
same way and in the same state but for D itself. The spec's decision D2. -/
def Obligations.DecimalFlagHasNoEffect : Prop :=
  ∀ (s : State) (o : Operand) (i : Instr) (d : Bool), i = .adc o ∨ i = .sbc o →
    s.params.decimalEnabled = false →
    let withD (s : State) : State := { s with cpu := { s.cpu with p := { s.cpu.p with d := d } } }
    exec i (withD s) = andThen (exec i s) fun t => .next (withD t)

/-- CMP, CPX, CPY (R228, R229, R230): C is the unsigned comparison, Z equality, N bit 7 of the difference; V and the register
stay, the incoming carry is not used. -/
def Obligations.ComparesSetCZN : Prop :=
  let compare (r m : Byte) (p : Flags) : Flags :=
    { p with c := decide (m.toNat ≤ r.toNat), z := decide (r.toNat = m.toNat),
             n := decide (0x80 ≤ (r.toNat + 256 - m.toNat) % 256) }
  ReadingRule .cmp .cmp
    [(.imm, 0xC9, 2), (.zp, 0xC5, 3), (.zpx, 0xD5, 4), (.abs, 0xCD, 4), (.abx, 0xDD, 4), (.aby, 0xD9, 4),
      (.izx, 0xC1, 6), (.izy, 0xD1, 5)] (fun m c => { c with p := compare c.a m c.p }) ∧
  ReadingRule .cpx .cpx [(.imm, 0xE0, 2), (.zp, 0xE4, 3), (.abs, 0xEC, 4)]
    (fun m c => { c with p := compare c.x m c.p }) ∧
  ReadingRule .cpy .cpy [(.imm, 0xC0, 2), (.zp, 0xC4, 3), (.abs, 0xCC, 4)]
    (fun m c => { c with p := compare c.y m c.p })

/-- INC and DEC on memory (R231, R234): one read and one write of the same address, Z and N from the result, modulo 256. -/
def Obligations.IncrementsAndDecrementsOfMemory : Prop :=
  let up (m : Byte) : Byte := BitVec.ofNat 8 ((m.toNat + 1) % 256)
  let down (m : Byte) : Byte := BitVec.ofNat 8 ((m.toNat + 255) % 256)
  ModifyingRule .inc .inc [(.zp, 0xE6, 5), (.zpx, 0xF6, 6), (.abs, 0xEE, 6), (.abx, 0xFE, 7)]
    (fun m _ => up m) (fun m p => withZN (up m) p) ∧
  ModifyingRule .dec .dec [(.zp, 0xC6, 5), (.zpx, 0xD6, 6), (.abs, 0xCE, 6), (.abx, 0xDE, 7)]
    (fun m _ => down m) (fun m p => withZN (down m) p)

/-- INX, INY, DEX, DEY (R232, R233, R235, R236), modulo 256. -/
def Obligations.IncrementsAndDecrementsOfRegisters : Prop :=
  let up (m : Byte) : Byte := BitVec.ofNat 8 ((m.toNat + 1) % 256)
  let down (m : Byte) : Byte := BitVec.ofNat 8 ((m.toNat + 255) % 256)
  ImpliedRule .inx 0xE8 2 (fun c => { c with x := up c.x, p := withZN (up c.x) c.p }) ∧
  ImpliedRule .iny 0xC8 2 (fun c => { c with y := up c.y, p := withZN (up c.y) c.p }) ∧
  ImpliedRule .dex 0xCA 2 (fun c => { c with x := down c.x, p := withZN (down c.x) c.p }) ∧
  ImpliedRule .dey 0x88 2 (fun c => { c with y := down c.y, p := withZN (down c.y) c.p })

/-! ## Logic, shifts and rotates (43_logic_shift.md) -/

/-- AND, ORA, EOR and BIT (R246 to R249): the first three write A and set Z and N from it; BIT takes Z from the and, V
and N from bits 6 and 7 of the operand, and leaves A and C. N from bit 7 in BIT is from the spec's general knowledge
(R249). -/
def Obligations.LogicAndBitTest : Prop :=
  ReadingRule .and .and
    [(.imm, 0x29, 2), (.zp, 0x25, 3), (.zpx, 0x35, 4), (.abs, 0x2D, 4), (.abx, 0x3D, 4), (.aby, 0x39, 4),
      (.izx, 0x21, 6), (.izy, 0x31, 5)] (fun m c => { c with a := c.a &&& m, p := withZN (c.a &&& m) c.p }) ∧
  ReadingRule .ora .ora
    [(.imm, 0x09, 2), (.zp, 0x05, 3), (.zpx, 0x15, 4), (.abs, 0x0D, 4), (.abx, 0x1D, 4), (.aby, 0x19, 4),
      (.izx, 0x01, 6), (.izy, 0x11, 5)] (fun m c => { c with a := c.a ||| m, p := withZN (c.a ||| m) c.p }) ∧
  ReadingRule .eor .eor
    [(.imm, 0x49, 2), (.zp, 0x45, 3), (.zpx, 0x55, 4), (.abs, 0x4D, 4), (.abx, 0x5D, 4), (.aby, 0x59, 4),
      (.izx, 0x41, 6), (.izy, 0x51, 5)] (fun m c => { c with a := c.a ^^^ m, p := withZN (c.a ^^^ m) c.p }) ∧
  ReadingRule .bit .bit [(.zp, 0x24, 3), (.abs, 0x2C, 4)] (fun m c =>
    { c with p := { c.p with
      z := decide (c.a &&& m = 0), v := decide (m.toNat / 64 % 2 = 1), n := decide (0x80 ≤ m.toNat) } })

/-- ASL, LSR, ROL, ROR (R250 to R253), of A and of memory, on numbers: the shifts move by one place, the rotates are
rotations of the nine bits `{C, m}`. -/
def Obligations.ShiftsAndRotates : Prop :=
  let byte (n : Nat) : Byte := BitVec.ofNat 8 n
  let asl (m : Byte) (_ : Flags) : Byte := byte (m.toNat * 2 % 256)
  let lsr (m : Byte) (_ : Flags) : Byte := byte (m.toNat / 2)
  let rol (m : Byte) (p : Flags) : Byte := byte (m.toNat * 2 % 256 + p.c.toNat)
  let ror (m : Byte) (p : Flags) : Byte := byte (m.toNat / 2 + p.c.toNat * 128)
  let high (m : Byte) : Bool := decide (0x80 ≤ m.toNat)
  let low (m : Byte) : Bool := decide (m.toNat % 2 = 1)
  let onA (i : Operand → Instr) (opcode : Byte) (result : Byte → Flags → Byte) (out : Byte → Bool) : Prop :=
    ImpliedRule (i .acc) opcode 2 fun c =>
      { c with a := result c.a c.p, p := withZN (result c.a c.p) { c.p with c := out c.a } }
  let onMemory (i : Operand → Instr) (mn : Mnemonic) (table : List (Mode × Byte × Nat))
      (result : Byte → Flags → Byte) (out : Byte → Bool) : Prop :=
    ModifyingRule i mn table result fun m p => withZN (result m p) { p with c := out m }
  (onA .asl 0x0A asl high ∧ onMemory .asl .asl
    [(.acc, 0x0A, 2), (.zp, 0x06, 5), (.zpx, 0x16, 6), (.abs, 0x0E, 6), (.abx, 0x1E, 7)] asl high) ∧
  (onA .lsr 0x4A lsr low ∧ onMemory .lsr .lsr
    [(.acc, 0x4A, 2), (.zp, 0x46, 5), (.zpx, 0x56, 6), (.abs, 0x4E, 6), (.abx, 0x5E, 7)] lsr low) ∧
  (onA .rol 0x2A rol high ∧ onMemory .rol .rol
    [(.acc, 0x2A, 2), (.zp, 0x26, 5), (.zpx, 0x36, 6), (.abs, 0x2E, 6), (.abx, 0x3E, 7)] rol high) ∧
  (onA .ror 0x6A ror low ∧ onMemory .ror .ror
    [(.acc, 0x6A, 2), (.zp, 0x66, 5), (.zpx, 0x76, 6), (.abs, 0x6E, 6), (.abx, 0x7E, 7)] ror low)

/-! ## Control transfer (44_control.md) -/

/-- JMP (R261): to the operand, or to the word at the pointer, whose high byte is read from the same page where
`JMP_IND_PAGE_WRAP` is true, as in the spec, and from the next address where it is false (R136). No flag changes. The page
wrap is the spec's decision D9, the refusal its decision D41. -/
def Obligations.JumpsGoToTheirTarget : Prop :=
  Encodings .jmp [(.abs, 0x4C, 3), (.ind, 0x6C, 5)] ∧
  ∀ (s : State) (w : Word),
    let second : Word :=
      if s.params.jmpIndPageWrap then BitVec.ofNat 16 (w.toNat / 256 * 256 + (w.toNat + 1) % 256) else plus w 1
    exec (.jmp (.abs w)) s = .next (retired w (s.params.cycles 0x4C) s) ∧
    (Readable w s → Readable second s → ∃ lo hi t u, memRead w s = .next (lo, t) ∧ memRead second t = .next (hi, u) ∧
      exec (.jmp (.ind w)) s = .next (retired (BitVec.ofNat 16 (hi.toNat * 256 + lo.toNat)) (s.params.cycles 0x6C) u)) ∧
    (Unmapped w s → exec (.jmp (.ind w)) s = .fault (.addressOutOfRange w .read s.cpu.pc)) ∧
    (Readable w s → Unmapped second s → exec (.jmp (.ind w)) s = .fault (.addressOutOfRange second .read s.cpu.pc)) ∧
    (AtPort 7 w ∨ (Readable w s ∧ AtPort 7 second) → Rendering s →
      exec (.jmp (.ind w)) s = .refused (.portAccessWhileRendering 7))

/-- JSR and RTS (R262, R263): JSR pushes the address of its third byte, high byte first, and goes to its target; RTS
pulls it and adds one. The address pushed is the spec's decision D7. -/
def Obligations.SubroutineCallAndReturn : Prop :=
  Encodings .jsr [(.abs, 0x20, 6)] ∧ Encodings .rts [(.imp, 0x60, 6)] ∧
  (∀ (s : State) (target : Word), ∃ t, exec (.jsr target) s = .next t ∧
    t.cpu = { s.cpu with
      sp := BitVec.ofNat 8 (s.cpu.sp.toNat + 254), pc := target, stall := s.params.cycles 0x20 - 1 } ∧
    RamWrites s t fun i =>
      if i = stackIndex s 0 then some (BitVec.ofNat 8 ((plus s.cpu.pc 2).toNat / 256))
      else if i = stackIndex s 255 then some (BitVec.ofNat 8 ((plus s.cpu.pc 2).toNat % 256))
      else none) ∧
  (∀ (s : State), exec .rts s = .next (retired
    (BitVec.ofNat 16 ((s.mem.ramByte (stackIndex s 2)).toNat * 256 + (s.mem.ramByte (stackIndex s 1)).toNat + 1))
    (s.params.cycles 0x60)
    { s with cpu := { s.cpu with sp := BitVec.ofNat 8 (s.cpu.sp.toNat + 2) } }))

/-- The eight conditional branches (R264 to R272). The penalties are the spec's decision D17. -/
def Obligations.BranchesTestOneFlag : Prop :=
  BranchRule .bcc 0x90 (fun p => !p.c) ∧ BranchRule .bcs 0xB0 (fun p => p.c) ∧
  BranchRule .beq 0xF0 (fun p => p.z) ∧ BranchRule .bne 0xD0 (fun p => !p.z) ∧
  BranchRule .bmi 0x30 (fun p => p.n) ∧ BranchRule .bpl 0x10 (fun p => !p.n) ∧
  BranchRule .bvc 0x50 (fun p => !p.v) ∧ BranchRule .bvs 0x70 (fun p => p.v)

/-! ## Flags and system (45_flags_system.md), interrupts (60_exceptions.md) -/

/-- CLC, SEC, CLI, SEI, CLD, SED, CLV (R281 to R287) and NOP (R290). -/
def Obligations.FlagInstructionsAndNop : Prop :=
  ImpliedRule .clc 0x18 2 (fun c => { c with p := { c.p with c := false } }) ∧
  ImpliedRule .sec 0x38 2 (fun c => { c with p := { c.p with c := true } }) ∧
  ImpliedRule .cli 0x58 2 (fun c => { c with p := { c.p with i := false } }) ∧
  ImpliedRule .sei 0x78 2 (fun c => { c with p := { c.p with i := true } }) ∧
  ImpliedRule .cld 0xD8 2 (fun c => { c with p := { c.p with d := false } }) ∧
  ImpliedRule .sed 0xF8 2 (fun c => { c with p := { c.p with d := true } }) ∧
  ImpliedRule .clv 0xB8 2 (fun c => { c with p := { c.p with v := false } }) ∧
  ImpliedRule .nop 0xEA 2 (fun c => c)

/-- BRK and RTI (R288, R289): BRK pushes its address plus 2 and the status with bits 5 and 4 set, sets I after that,
and goes to the IRQ/BRK vector; RTI pulls the status, bits 5 and 4 ignored, and then PC. The return address is the
spec's decision D8, bits 5 and 4 its D4, the vector its D5. -/
def Obligations.BreakAndReturnFromInterrupt : Prop :=
  Encodings .brk [(.imp, 0x00, 7)] ∧ Encodings .rti [(.imp, 0x40, 6)] ∧
  (∀ (s : State), ∃ t, exec .brk s = .next t ∧
    t.cpu = { s.cpu with
      sp := BitVec.ofNat 8 (s.cpu.sp.toNat + 253), p := { s.cpu.p with i := true }, pc := vectorWord s s.params.vecIrq
      stall := s.params.cycles 0x00 - 1 } ∧
    RamWrites s t (threePushed s (plus s.cpu.pc 2) (statusByte true s.cpu.p))) ∧
  (∀ (s : State), exec .rti s = .next (retired
    (BitVec.ofNat 16 ((s.mem.ramByte (stackIndex s 3)).toNat * 256 + (s.mem.ramByte (stackIndex s 2)).toNat))
    (s.params.cycles 0x40)
    { s with cpu := { s.cpu with
      sp := BitVec.ofNat 8 (s.cpu.sp.toNat + 3), p := restored (s.mem.ramByte (stackIndex s 1)) s.cpu.p } }))

/-- "JSR to address X followed by RTS returns control to the instruction after the JSR, with SP restored"; "BRK followed by
RTI restores the exact pre-BRK PC and status byte", where that PC is the return address BRK pushed (the spec's decision D8):
PC, SP and, for RTI, all seven flags are as before. Also when the code in between did anything that left SP and the pushed
bytes. -/
def Obligations.ReturnsUndoCallsAndBreaks : Prop :=
  (∀ (s : State) (target : Word), ∃ t, exec (.jsr target) s = .next t ∧ t.cpu.pc = target ∧
    ∀ u, u.cpu.sp = t.cpu.sp →
      u.mem.ramByte (stackIndex s 0) = t.mem.ramByte (stackIndex s 0) →
      u.mem.ramByte (stackIndex s 255) = t.mem.ramByte (stackIndex s 255) →
      ∃ v, exec .rts u = .next v ∧ v.cpu.pc = plus s.cpu.pc 3 ∧ v.cpu.sp = s.cpu.sp ∧ v.cpu.p = u.cpu.p) ∧
  (∀ (s : State), ∃ t, exec .brk s = .next t ∧
    ∀ u, u.cpu.sp = t.cpu.sp → u.cpu.p.b = s.cpu.p.b →
      (∀ k, k = 0 ∨ k = 255 ∨ k = 254 →
        u.mem.ramByte (stackIndex s k) = t.mem.ramByte (stackIndex s k)) →
      ∃ v, exec .rti u = .next v ∧ v.cpu.pc = plus s.cpu.pc 2 ∧ v.cpu.p = s.cpu.p ∧ v.cpu.sp = s.cpu.sp)

/-- The entries (R434, R436): NMI and IRQ push the current PC and the status with bit 5 set and bit 4 as
`B_ON_HW_INTERRUPT` says (set, in the spec), set I, go to their vector and report `INT_CYCLES`; NMI clears its latch. Bit 4
is the spec's decision D4, the vectors its D5; what IRQ pushes is its general knowledge. -/
def Obligations.NmiAndIrqEntries : Prop :=
  ∀ (s : State),
    let entered (pending : Bool) (vector : Word) : Cpu :=
      { s.cpu with
        sp := BitVec.ofNat 8 (s.cpu.sp.toNat + 253), p := { s.cpu.p with i := true }, pc := vectorWord s vector
        stall := s.params.intCycles - 1, nmiPending := pending }
    let status : Byte := statusByte s.params.bOnHwInterrupt s.cpu.p
    (∃ t, nmiEntry s = .next t ∧ t.cpu = entered false s.params.vecNmi ∧
      RamWrites s t (threePushed s s.cpu.pc status)) ∧
    (∃ t, irqEntry s = .next t ∧ t.cpu = entered s.cpu.nmiPending s.params.vecIrq ∧
      RamWrites s t (threePushed s s.cpu.pc status))

/-- The order at an instruction boundary (R123, R439): a pending NMI first, whatever I says; else an asserted IRQ line
if I is clear; else the instruction at PC. The order is the spec's decision D16. -/
def Obligations.InterruptPriority : Prop :=
  ∀ (s : State),
    (s.cpu.nmiPending = true → cpuStep s = nmiEntry s) ∧
    (s.cpu.nmiPending = false → s.irqLine = true → s.cpu.p.i = false → cpuStep s = irqEntry s) ∧
    (s.cpu.nmiPending = false → (s.irqLine = false ∨ s.cpu.p.i = true) → cpuStep s = runInstruction s)

/-- The NMI request (R303, R433, R435; the routing is the spec's decision D31): the line is `vblank & ctrl[7]`, and only its
rise latches a request; a pending request is cleared by an NMI entry only, so that a step from a state with one pending
leaves it pending unless the step is a CPU cycle at an instruction boundary, where the entry is taken. -/
def Obligations.NmiRequestsLatchAndStay : Prop :=
  (∀ (s : State),
    let line := s.ppu.vblank && s.ppu.ctrl.getLsbD 7
    updateNmi s =
      { s with
        cpu := { s.cpu with nmiPending := s.cpu.nmiPending || (line && !s.ppu.nmiLine) }
        ppu := { s.ppu with nmiLine := line } }) ∧
  (∀ (s t : State), s.cpu.nmiPending = true → step s = .next t →
    t.cpu.nmiPending = true ∨
      (s.master % s.params.ppuPerCpu = 0 ∧ s.cpu.stall = 0 ∧ t.cpu.pc = vectorWord s s.params.vecNmi ∧
        t.cpu.p.i = true))

/-! ## Whole-machine rules on registers (10_state.md) -/

/-- No instruction but those 10_state.md lists writes A, X, Y, SP or a flag (R21 to R24, R28 to R34); none writes B, which is
the spec's decision D4. -/
def Obligations.OnlyTheListedInstructionsWriteARegister : Prop :=
  ∀ (i : Instr) (s t : State), exec i s = .next t →
    (writesA i = false → t.cpu.a = s.cpu.a) ∧ (writesX i = false → t.cpu.x = s.cpu.x) ∧
    (writesY i = false → t.cpu.y = s.cpu.y) ∧ (writesSp i = false → t.cpu.sp = s.cpu.sp) ∧
    (writesC i = false → t.cpu.p.c = s.cpu.p.c) ∧
    (writesZN i = false → t.cpu.p.z = s.cpu.p.z ∧ t.cpu.p.n = s.cpu.p.n) ∧
    (writesV i = false → t.cpu.p.v = s.cpu.p.v) ∧ (writesD i = false → t.cpu.p.d = s.cpu.p.d) ∧
    (writesI i = false → t.cpu.p.i = s.cpu.p.i) ∧ t.cpu.p.b = s.cpu.p.b

/-- What no step ever changes: the cartridge (R9) and the parameters, the break flag (R32, the spec's decision D4), the
running state of a step that goes on, and the host's input IRQ_LINE, which no step writes by the model's choice, log entry
10; and every step counts one master tick and, on a CPU tick, one CPU cycle (R401, R402). -/
def Obligations.WhatNoStepChanges : Prop :=
  ∀ (s t : State), step s = .next t →
    t.cart = s.cart ∧ t.params = s.params ∧ t.cpu.p.b = s.cpu.p.b ∧ t.irqLine = s.irqLine ∧
    s.halted = .running ∧ t.halted = .running ∧
    t.master = s.master + 1 ∧ t.cpu.cyc = s.cpu.cyc + (if s.master % s.params.ppuPerCpu = 0 then 1 else 0)

/-! ## Memory (20_memory.md) -/

/-- The CPU bus (R72, R73): what a read and a write do in every window. The windows and the hole are the spec's decision
D21, the read-only PRG its D22, the read of 0x4014 its D25; that the free value read there is `Config.draw` of a counter is
the model's choice, log entry 1. With `HOLE_POLICY = ram` a byte array lies behind the hole (R78), which does not lay it out:
that it has one byte for each address, at the address modulo 0x4000, is the model's choice, log entry 24. -/
def Obligations.CpuBusMap : Prop :=
  ∀ (a : Word) (v : Byte) (s : State),
    (InRam a → memRead a s = .next (s.mem.ramByte (a.toNat % 2048), s) ∧
      memWrite a v s = .next { s with mem := s.mem.putRam (a.toNat % 2048) v }) ∧
    (InPorts a → memRead a s = portRead (BitVec.ofNat 3 (a.toNat % 8)) s ∧
      memWrite a v s = portWrite (BitVec.ofNat 3 (a.toNat % 8)) v s) ∧
    (a = 0x4014 → memRead a s = .next (Config.draw 8 s.draws, { s with draws := s.draws + 1 }) ∧
      memWrite a v s = oamDma v s) ∧
    (Unmapped a s → memRead a s = .fault (.addressOutOfRange a .read s.cpu.pc) ∧
      memWrite a v s = .fault (.addressOutOfRange a .write s.cpu.pc)) ∧
    (InHole a → s.params.holePolicy = .ram →
      memRead a s = .next (s.mem.holeByte (a.toNat % 0x4000), s) ∧
      ∃ t, memWrite a v s = .next t ∧ t = { s with mem := { s.mem with hole := t.mem.hole } } ∧
        ∀ i, t.mem.holeByte i = if i = a.toNat % 0x4000 then v else s.mem.holeByte i) ∧
    (InPrg a → memRead a s = .next (s.cart.prgByte ((a.toNat - 0x8000) % s.cart.prgSize), s) ∧
      memWrite a v s = .next s)

/-- RAM mirroring (R74): a write through any of the four windows is seen through all four, and nothing else changes: no other
byte of `ram`, and no other part of the state. That a write through any window is seen through all is derived in R74. -/
def Obligations.RamMirrors : Prop :=
  ∀ (a b : Word) (v : Byte) (s : State), InRam a → InRam b → ∃ t, memWrite a v s = .next t ∧
    t = { s with mem := { s.mem with ram := t.mem.ram } } ∧
    memRead b t = (if b.toNat % 2048 = a.toNat % 2048 then .next (v, t)
      else andThen (memRead b s) fun r => .next (r.1, t))

/-- The PPU bus (R90 to R95): a byte written is read back through every mirror of its cell, a palette cell keeps six
bits, CHR ignores writes, and no other byte changes. The layout is the spec's decision D28, the read-only CHR D22. -/
def Obligations.PpuBusReadsBackWrites : Prop :=
  ∀ (c : Cartridge) (m : Memory) (a b : PpuAddr) (v : Byte),
    let nametable (a : PpuAddr) : Nat :=
      match c.mirroring with
      | .vertical => a.toNat % 2048
      | .horizontal => a.toNat / 2048 % 2 * 1024 + a.toNat % 1024
    let palette (a : PpuAddr) : Nat := if a.toNat % 4 = 0 then a.toNat % 16 else a.toNat % 32
    let isNametable (a : PpuAddr) : Prop := 0x2000 ≤ a.toNat ∧ a.toNat < 0x3F00
    let isPalette (a : PpuAddr) : Prop := 0x3F00 ≤ a.toNat
    (a.toNat < 0x2000 → ppuWrite c a v m = m ∧ ppuRead c m a = c.chrByte a.toNat) ∧
    (isNametable a → isNametable b → ppuRead c (ppuWrite c a v m) b =
      if nametable b = nametable a then v else ppuRead c m b) ∧
    (isPalette a → isPalette b → ppuRead c (ppuWrite c a v m) b =
      if palette b = palette a then BitVec.ofNat 8 (v.toNat % 64) else ppuRead c m b) ∧
    (isPalette a → isNametable b → ppuRead c (ppuWrite c a v m) b = ppuRead c m b) ∧
    (isNametable a → isPalette b → ppuRead c (ppuWrite c a v m) b = ppuRead c m b) ∧
    (ppuWrite c a v m = { m with vram := (ppuWrite c a v m).vram, pal := (ppuWrite c a v m).pal })

/-! ## PPU ports (47_ppu_registers.md) -/

/-- Port reads (R301, R304, R307, R309, R312): the write-only ports give a free value; status gives its three flags
and five free bits and clears vblank and `w`; OAM data gives the byte at `oamaddr`, a free value while rendering; the
data port is buffered, except in the palette, and steps `v`; it is refused while rendering. The free values are the
spec's decision D25, the buffer its D26, rendering its D41; their form, `Config.draw` of a counter, is the model's choice,
log entry 1, and so is the free value of OAM data while rendering (R309, where D41 refuses), log entry 9. -/
def Obligations.PortReads : Prop :=
  ∀ (s : State),
    (∀ p : BitVec 3, p ∉ [2, 4, 7] →
      portRead p s = .next (Config.draw 8 s.draws, { s with draws := s.draws + 1 })) ∧
    (∃ r, portRead 2 s = .next (r, { s with
        draws := s.draws + 1
        ppu := { s.ppu with vblank := false, w := false, nmiLine := false } }) ∧
      r.toNat = s.ppu.vblank.toNat * 128 + s.ppu.s0hit.toNat * 64 + s.ppu.overflow.toNat * 32 +
        (Config.draw 5 s.draws).toNat) ∧
    (¬Rendering s → portRead 4 s = .next (s.mem.oamByte s.ppu.oamaddr.toNat, s)) ∧
    (Rendering s → portRead 4 s = .next (Config.draw 8 s.draws, { s with draws := s.draws + 1 })) ∧
    (Rendering s → portRead 7 s = .refused (.portAccessWhileRendering 7)) ∧
    (¬Rendering s →
      let a : PpuAddr := BitVec.ofNat 14 (s.ppu.v.toNat % 0x4000)
      let v : Scroll := BitVec.ofNat 15 (s.ppu.v.toNat + if s.ppu.ctrl.getLsbD 2 then 32 else 1)
      (a.toNat ≤ 0x3EFF → portRead 7 s =
        .next (s.ppu.readbuf, { s with ppu := { s.ppu with readbuf := ppuRead s.cart s.mem a, v := v } })) ∧
      (0x3F00 ≤ a.toNat → portRead 7 s =
        .next (ppuRead s.cart s.mem a, { s with ppu := { s.ppu with
          readbuf := ppuRead s.cart s.mem (BitVec.ofNat 14 (a.toNat - 0x1000)), v := v } })))

/-- Port writes (R301, R305, R306, R308, R310, R313, R315): control with its copy of the nametable bits into `t`,
mask, status (ignored), OAM address, OAM data, data; ports 4 and 7 are refused while rendering. The ports' order is
the spec's decision D24, rendering its D41; where the bits go is its general knowledge. -/
def Obligations.PortWrites : Prop :=
  ∀ (s : State) (d : Byte),
    (∃ t : Scroll, portWrite 0 d s = .next (updateNmi { s with ppu := { s.ppu with ctrl := d, t := t } }) ∧
      ∀ k, k < 15 → t.getLsbD k = if k = 10 ∨ k = 11 then d.getLsbD (k - 10) else s.ppu.t.getLsbD k) ∧
    portWrite 1 d s = .next { s with ppu := { s.ppu with mask := d } } ∧
    portWrite 2 d s = .next s ∧
    portWrite 3 d s = .next { s with ppu := { s.ppu with oamaddr := d } } ∧
    (¬Rendering s → portWrite 4 d s = .next { s with
      mem := s.mem.putOam s.ppu.oamaddr.toNat d
      ppu := { s.ppu with oamaddr := BitVec.ofNat 8 (s.ppu.oamaddr.toNat + 1) } }) ∧
    (¬Rendering s → portWrite 7 d s = .next { s with
      mem := ppuWrite s.cart (BitVec.ofNat 14 (s.ppu.v.toNat % 0x4000)) d s.mem
      ppu := { s.ppu with v := BitVec.ofNat 15 (s.ppu.v.toNat + if s.ppu.ctrl.getLsbD 2 then 32 else 1) } }) ∧
    (Rendering s → portWrite 4 d s = .refused (.portAccessWhileRendering 4) ∧
      portWrite 7 d s = .refused (.portAccessWhileRendering 7))

/-- The two-stage latches of the scroll and address ports (R311, R314), bit by bit: `w` chooses the half of `t`, and
the second address write copies `t` into `v`. Where the bits go is the spec's general knowledge. -/
def Obligations.ScrollAndAddressLatches : Prop :=
  ∀ (s : State) (d : Byte),
    let same (k : Nat) : Bool := s.ppu.t.getLsbD k
    (s.ppu.w = false → ∃ t : Scroll,
      portWrite 5 d s = .next { s with ppu := { s.ppu with t := t, x := BitVec.ofNat 3 (d.toNat % 8), w := true } } ∧
      ∀ k, k < 15 → t.getLsbD k = if k ≤ 4 then d.getLsbD (k + 3) else same k) ∧
    (s.ppu.w = true → ∃ t : Scroll,
      portWrite 5 d s = .next { s with ppu := { s.ppu with t := t, w := false } } ∧
      ∀ k, k < 15 → t.getLsbD k =
        if 12 ≤ k then d.getLsbD (k - 12) else if 5 ≤ k ∧ k ≤ 9 then d.getLsbD (k - 2) else same k) ∧
    (s.ppu.w = false → ∃ t : Scroll,
      portWrite 6 d s = .next { s with ppu := { s.ppu with t := t, w := true } } ∧
      ∀ k, k < 15 → t.getLsbD k =
        if k = 14 then false else if 8 ≤ k then d.getLsbD (k - 8) else same k) ∧
    (s.ppu.w = true → ∃ t : Scroll,
      portWrite 6 d s = .next { s with ppu := { s.ppu with t := t, v := t, w := false } } ∧
      ∀ k, k < 15 → t.getLsbD k = if k < 8 then d.getLsbD k else same k)

/-- OAM DMA (R410, R412, R413): the 256 bytes of a page of the RAM or PRG window go to `oam`, from `oamaddr` on and
round; nothing else changes; a page of the port window completes; a page of the hole faults at its first byte; while the PPU
is rendering the transfer is refused. With `HOLE_POLICY = ram` a page of the hole is copied from the array behind it, a byte
at its address modulo 0x4000, and page 0x40, which holds the DMA port, completes: the model's choice, log entry 24. The
start offset and the atomic copy are the spec's decision D20, the refusal its D41. -/
def Obligations.OamDmaCopiesAPage : Prop :=
  ∀ (p : Byte) (s : State),
    (Rendering s → oamDma p s = .refused .dmaWhileRendering) ∧
    (¬Rendering s → p.toNat ≤ 0x1F ∨ 0x80 ≤ p.toNat ∨ (s.params.holePolicy = .ram ∧ 0x41 ≤ p.toNat) →
      ∃ t, oamDma p s = .next t ∧
      t = { s with mem := { s.mem with oam := t.mem.oam } } ∧
      ∀ i, i < 256 → t.mem.oamByte ((s.ppu.oamaddr.toNat + i) % 256) =
        storedByte (BitVec.ofNat 16 (p.toNat * 256 + i)) s) ∧
    (¬Rendering s → 0x20 ≤ p.toNat → p.toNat ≤ 0x3F ∨ (s.params.holePolicy = .ram ∧ p.toNat = 0x40) →
      ∃ t, oamDma p s = .next t ∧ t.ppu.oamaddr = s.ppu.oamaddr) ∧
    (¬Rendering s → s.params.holePolicy = .fault → 0x40 ≤ p.toNat → p.toNat ≤ 0x7F →
      oamDma p s = .fault (.addressOutOfRange (BitVec.ofNat 16 (p.toNat * 256)) .read s.cpu.pc))

/-! ## The orchestrator (49_dma_clock.md) -/

/-- The master tick and the CPU cycle (R401, R402): on every third tick (one in `PPU_PER_CPU`) the CPU cycle, which burns a
stall cycle or performs a CPU step, then the dot; on the others the dot alone. The order inside a tick is the spec's
decision D19. Parameters that are not admitted are refused (93_implementation_defined.md U9; which those are is the
model's choice, log entry 14). -/
def Obligations.MasterTickOrder : Prop :=
  ∀ (s : State), s.halted = .running →
    let cpuTick : Prop := s.master % s.params.ppuPerCpu = 0
    let counted : State := { s with cpu := { s.cpu with cyc := s.cpu.cyc + 1 } }
    let dot (t : State) : Result State := .next { ppuDot t with master := t.master + 1 }
    (s.params.admitted = true →
      (¬cpuTick → step s = dot s) ∧
      (cpuTick → 0 < s.cpu.stall →
        step s = dot { counted with cpu := { counted.cpu with stall := s.cpu.stall - 1 } }) ∧
      (cpuTick → s.cpu.stall = 0 → step s = andThen (cpuStep counted) dot)) ∧
    (s.params.admitted = false → step s = .refused .parametersNotAdmitted) ∧
    (s.params.ppuPerCpu = 0 → s.params.admitted = false) ∧ Params.spec.admitted = true

/-- The coarser step of R405 agrees with the master tick: where a CPU step of n cycles goes on, 3n ticks (`PPU_PER_CPU * n`)
from the boundary all go on and end in the state of one CPU step followed by 3n dots; where it stops, so does the coarser
step. From any other tick the boundary is reached first, by ticks that burn the stall cycles (after reset its 7). A run of n
CPU steps (R481) is such steps one after the other, so a run of ticks. A run that is to end at the address of a self-jump
ends at the first boundary with PC there; and from a boundary at a `JMP` to its own address, in the RAM or the PRG window,
every further step, as long as no interrupt is taken, completes and leaves the CPU but for its counters and the NMI latch,
and memory. The spec derives R405 from R401 and R402; what a run is, is its decision D43; where a run starts and ends is
read from it by the model, log entry 26. -/
def Obligations.CoarseStepIsTheRunOfTicks : Prop :=
  (∀ (s : State), AtBoundary s →
    let counted : State := { s with cpu := { s.cpu with cyc := s.cpu.cyc + 1 } }
    let k := s.params.ppuPerCpu
    (∀ t, cpuStep counted = .next t →
      ∃ u, boundaryStep s = .next u ∧ Ticks (k * (t.cpu.stall + 1)) s u ∧ AtBoundary u ∧
        u.master = s.master + k * (t.cpu.stall + 1) ∧ u.cpu.cyc = s.cpu.cyc + (t.cpu.stall + 1)) ∧
    (∀ f, cpuStep counted = .fault f → boundaryStep s = .fault f) ∧
    (∀ r, cpuStep counted = .refused r → boundaryStep s = .refused r)) ∧
  (∀ (s : State), s.halted = .running → s.params.admitted = true →
    let k := s.params.ppuPerCpu
    ∃ u, Ticks ((k - s.master % k) % k + k * s.cpu.stall) s u ∧ AtBoundary u ∧
      u.cpu = { s.cpu with stall := 0, cyc := s.cpu.cyc + s.cpu.stall, nmiPending := u.cpu.nmiPending } ∧
      boundaryStep s = boundaryStep u ∧
      ∀ (a : Word) (n : Nat) (t : State), runToSelfJump a n s = .next (some t) ↔
        ∃ m, m ≤ n ∧ runSteps m u = .next t ∧ t.cpu.pc = a ∧
          ∀ j v, j < m → runSteps j u = .next v → v.cpu.pc ≠ a) ∧
  (∀ (n : Nat) (s t : State), runSteps n s = .next t → (∃ k, Ticks k s t) ∧ (0 < n → AtBoundary t)) ∧
  (∀ (m n : Nat) (s : State), runSteps 0 s = .next s ∧ runSteps 1 s = boundaryStep s ∧
    runSteps (m + n) s = andThen (runSteps m s) (runSteps n)) ∧
  ∀ (s : State) (n : Nat), AboutToFetch s → AtSelfJump s →
    (∀ m u, m < n → runSteps m s = .next u → u.cpu.nmiPending = false) →
    ∃ t, runSteps n s = .next t ∧ t.mem = s.mem ∧
      t.cpu = { s.cpu with
        cyc := s.cpu.cyc + n * (s.params.cycles 0x4C - 1 + 1), nmiPending := t.cpu.nmiPending }

/-- A fault halts the machine (R408, R444): the step answers the fault, the master tick leaves the state of the
instant before the CPU step, with the CPU cycle counted and the machine halted; from then on the machine does not
move. The state a fault leaves is the spec's decision D14. -/
def Obligations.FaultsHaltTheMachine : Prop :=
  ∀ (s : State) (f : Fault),
    (s.halted = .running → step s = .fault f →
      masterTick s = .next { s with cpu := { s.cpu with cyc := s.cpu.cyc + 1 }, halted := .faulted f }) ∧
    (s.halted = .faulted f → step s = .fault f ∧ masterTick s = .next s)

/-- The cycles a CPU step reports (R404): at least 2; at most 7, or a DMA's 513 or 514 more; an interrupt entry
reports 7. The numbers are the spec's values of the parameters `CYC`, `DMA_BASE_CYCLES` and `INT_CYCLES`, its decisions
D17 and D20. -/
def Obligations.CycleCountsAreBounded : Prop :=
  (∀ (i : Instr) (s t : State), s.params.cyc = Params.spec.cyc → s.params.dmaBaseCycles = 513 → exec i s = .next t →
    2 ≤ t.cpu.stall + 1 ∧ (t.cpu.stall + 1 ≤ 7 ∨ (517 ≤ t.cpu.stall + 1 ∧ t.cpu.stall + 1 ≤ 521))) ∧
  (∀ (s t : State), s.params.intCycles = 7 → nmiEntry s = .next t ∨ irqEntry s = .next t → t.cpu.stall + 1 = 7)

/-! ## Reset (70_reset_and_hazards.md) -/

/-- Reset (R57, R446, R470, R471): every register and flag of an admitted cartridge's machine, PC from the reset
vector; a cartridge that is not admitted leaves it halted; a later reset does the same and keeps the arrays; and the values
R7 gives the parameters. The values are the spec's decisions D37 and D38, the admitted cartridges its D22 and D23. The
model's choice: a later reset keeps the host's `irqLine` and the count of draws, log entry 13, and what a machine that is
halted at power-on holds, log entry 19. -/
def Obligations.ResetValues : Prop :=
  (∀ (k : Params) (c : Cartridge),
    let s := State.powerOn k c
    (c.admitted = true ↔ c.mapperId = 0 ∧ (c.prgSize = 0x4000 ∨ c.prgSize = 0x8000) ∧ c.chrSize = 0x2000) ∧
    (c.admitted = true → s.halted = .running) ∧
    (c.admitted = false → s.halted = .faulted (.unsupportedMapper c.mapperId)) ∧
    s.cpu = { a := 0x00, x := 0x00, y := 0x00, sp := 0xFD, pc := vectorWord s k.vecReset,
              p := { n := false, v := false, b := false, d := false, i := true, z := false, c := false },
              nmiPending := false, stall := k.resetCycles, cyc := 0 } ∧
    s.cpu.p.pack = 0x24 ∧ s.cart = c ∧ s.params = k ∧ s.master = 0 ∧
    (s.ppu.ctrl = 0 ∧ s.ppu.mask = 0 ∧ s.ppu.oamaddr = 0 ∧ s.ppu.readbuf = 0) ∧
    (s.ppu.vblank = false ∧ s.ppu.s0hit = false ∧ s.ppu.overflow = false ∧ s.ppu.nmiLine = false) ∧
    (s.ppu.v = 0 ∧ s.ppu.t = 0 ∧ s.ppu.x = 0 ∧ s.ppu.w = false) ∧
    (s.ppu.scanline = 0 ∧ s.ppu.dot = 0 ∧ s.ppu.odd = false) ∧
    (s.ppu.ntByte = 0 ∧ s.ppu.atBits = 0 ∧ s.ppu.ptLo = 0 ∧ s.ppu.ptHi = 0 ∧ s.ppu.bgLo = 0 ∧ s.ppu.bgHi = 0 ∧
      s.ppu.atLo = 0 ∧ s.ppu.atHi = 0) ∧
    (s.ppu.secCount = 0 ∧ s.ppu.lineCount = 0 ∧ s.ppu.secHas0 = false ∧ s.ppu.lineHas0 = false) ∧
    (∀ j : Fin 8, s.ppu.sec[j] = ⟨0xFF, 0xFF, 0xFF, 0xFF⟩ ∧ s.ppu.line[j] = ⟨0xFF, 0xFF, 0xFF, 0xFF⟩) ∧
    (∀ t : State, t.cart = c → t.params = k → resetMachine t =
      if c.admitted then { s with mem := t.mem, irqLine := t.irqLine, draws := t.draws }
      else { t with halted := .faulted (.unsupportedMapper c.mapperId) })) ∧
  (State.reset.params = Params.spec ∧
    (Params.spec.vecNmi = 0xFFFA ∧ Params.spec.vecReset = 0xFFFC ∧ Params.spec.vecIrq = 0xFFFE) ∧
    (Params.spec.decimalEnabled = false ∧ Params.spec.jmpIndPageWrap = true ∧ Params.spec.bOnHwInterrupt = true) ∧
    (Params.spec.ppuPerCpu = 3 ∧ Params.spec.linesPerFrame = 262 ∧ Params.spec.dotsPerLine = 341 ∧
      Params.spec.preRenderLine = 261) ∧
    (Params.spec.vblSet = (241, 1) ∧ Params.spec.vblClear = (261, 1)) ∧
    (Params.spec.oddSkipRequiresRendering = false ∧ Params.spec.dmaBaseCycles = 513) ∧
    (Params.spec.intCycles = 7 ∧ Params.spec.resetCycles = 7 ∧ Params.spec.holePolicy = .fault))

/-! ## The PPU (48_ppu_rendering.md) -/

/-- What a dot leaves (R340): the arrays, the cartridge, the orchestrator's state, the CPU but for the NMI latch, which it may
set and does not clear, and the PPU registers that only a program writes. -/
def Obligations.DotWritesOnlyThePpu : Prop :=
  ∀ (s : State),
    let t := ppuDot s
    t.mem = s.mem ∧ t.cart = s.cart ∧ t.params = s.params ∧ t.halted = s.halted ∧ t.master = s.master ∧
    t.irqLine = s.irqLine ∧ t.draws = s.draws ∧ t.cpu = { s.cpu with nmiPending := t.cpu.nmiPending } ∧
    (s.cpu.nmiPending = true → t.cpu.nmiPending = true) ∧
    t.ppu.ctrl = s.ppu.ctrl ∧ t.ppu.mask = s.ppu.mask ∧ t.ppu.oamaddr = s.ppu.oamaddr ∧ t.ppu.t = s.ppu.t ∧
    t.ppu.x = s.ppu.x ∧ t.ppu.w = s.ppu.w ∧ t.ppu.readbuf = s.ppu.readbuf

/-- The vblank edges (R343, R344), the set before the clear where both lie on one dot (R345): at (241, 1), `VBL_SET`, vblank is
set, and with `ctrl[7]` the rise of the line requests an NMI; at (261, 1), `VBL_CLEAR`, the three flags are cleared and a
pending request stays; no other dot changes vblank or the line or requests an NMI, and no other dot clears the two sprite
flags. The dots are the spec's decision D30, the NMI line its D31. -/
def Obligations.VblankEdges : Prop :=
  ∀ (s : State),
    let t := ppuDot s
    let sets : Prop := s.params.vblSet = (s.ppu.scanline, s.ppu.dot)
    let clears : Prop := s.params.vblClear = (s.ppu.scanline, s.ppu.dot)
    (sets → ¬clears → t.ppu.vblank = true ∧ t.ppu.nmiLine = s.ppu.ctrl.getLsbD 7) ∧
    (clears → t.ppu.vblank = false ∧ t.ppu.nmiLine = false) ∧
    (¬sets → ¬clears → t.ppu.vblank = s.ppu.vblank ∧ t.ppu.nmiLine = s.ppu.nmiLine) ∧
    (sets → t.cpu.nmiPending = (s.cpu.nmiPending || (s.ppu.ctrl.getLsbD 7 && !s.ppu.nmiLine))) ∧
    (¬sets → t.cpu.nmiPending = s.cpu.nmiPending) ∧
    (clears → 239 < s.ppu.scanline → t.ppu.s0hit = false ∧ t.ppu.overflow = false) ∧
    (¬clears → (s.ppu.s0hit = true → t.ppu.s0hit = true) ∧ (s.ppu.overflow = true → t.ppu.overflow = true))

/-- The length of a frame (R341, R342): from the first dot of an even frame 262 times 341 dots lead to the first dot of an odd
one, and from there one dot fewer leads back, whatever is rendered; where `ODD_SKIP_REQUIRES_RENDERING` is true, one fewer
only with rendering on. The numbers are the spec's decision D29, the unconditional skip its D36. -/
def Obligations.FrameLengths : Prop :=
  Params.spec.linesPerFrame * Params.spec.dotsPerLine = 89342 ∧
  Params.spec.preRenderLine + 1 = Params.spec.linesPerFrame ∧
  ∀ (s : State), s.params.preRenderLine + 1 = s.params.linesPerFrame → 2 ≤ s.params.dotsPerLine →
    s.ppu.scanline = 0 → s.ppu.dot = 0 →
    let dots := s.params.linesPerFrame * s.params.dotsPerLine
    let skips : Bool := s.ppu.odd &&
      (!s.params.oddSkipRequiresRendering || s.ppu.mask.getLsbD 3 || s.ppu.mask.getLsbD 4)
    let end_ := (ppuDots (if skips then dots - 1 else dots) s).ppu
    end_.scanline = 0 ∧ end_.dot = 0 ∧ end_.odd = !s.ppu.odd

/-- The scroll algebra and when it runs (R351 to R354), on the fields of `v`: coarse X wraps at 31 and toggles bit 10,
coarse Y at 29 and toggles bit 11, at 31 without a toggle; the copies of `t` at dot 257 and, on the pre-render line,
at dots 280 to 304. The dots are the spec's decision D32, the copies its general knowledge. -/
def Obligations.ScrollMotion : Prop :=
  (∀ v : Scroll,
    let cx := v.toNat % 32
    let nx := v.toNat / 1024 % 2
    (incCoarseX v).toNat =
      if cx = 31 then v.toNat / 2048 * 2048 + (1 - nx) * 1024 + v.toNat / 32 % 32 * 32 else v.toNat + 1) ∧
  (∀ v : Scroll,
    let cy := v.toNat / 32 % 32
    let ny := v.toNat / 2048 % 2
    let fy := v.toNat / 4096
    let low := v.toNat / 1024 % 2 * 1024 + v.toNat % 32
    (incY v).toNat =
      if fy < 7 then v.toNat + 4096
      else if cy = 29 then (1 - ny) * 2048 + low
      else if cy = 31 then ny * 2048 + low
      else ny * 2048 + (cy + 1) * 32 + low) ∧
  ∀ (s : State),
    let d := s.ppu.dot
    let group := (1 ≤ d ∧ d ≤ 256) ∨ (321 ≤ d ∧ d ≤ 336)
    let v := s.ppu.v
    let v' := (ppuDot s).ppu.v
    (Rendering s →
      (group → d % 8 = 0 → d ≠ 256 → v' = incCoarseX v) ∧
      (d = 256 → v' = incY (incCoarseX v)) ∧
      (d = 257 → ∀ k, k < 15 → v'.getLsbD k = if k = 10 ∨ k ≤ 4 then s.ppu.t.getLsbD k else v.getLsbD k) ∧
      (s.ppu.scanline = s.params.preRenderLine → 280 ≤ d → d ≤ 304 → ∀ k, k < 15 →
        v'.getLsbD k = if 11 ≤ k ∨ (5 ≤ k ∧ k ≤ 9) then s.ppu.t.getLsbD k else v.getLsbD k) ∧
      (¬(group ∧ d % 8 = 0) → d ≠ 257 →
        ¬(s.ppu.scanline = s.params.preRenderLine ∧ 280 ≤ d ∧ d ≤ 304) → v' = v)) ∧
    (¬Rendering s → v' = v)

/-- The background fetcher: its addresses on the fields of `v` (R348, R349, R350) and the palette bits of the quadrant; which
latch a dot loads, at phases 0, 2, 4, 6 of the groups of R347; the four shifters, shifted at dots 2 to 257 and 322 to 337,
their low halves reloaded there at the first dot of a group (R355); at every other dot, on an idle line and with rendering
off the latches and the shifters stay. The formulas and the dots are the spec's general knowledge. -/
def Obligations.BackgroundFetchAddresses : Prop :=
  (∀ (v : Scroll) (b : Byte) (p : Ppu),
    let cx := v.toNat % 32
    let cy := v.toNat / 32 % 32
    let nt := v.toNat / 1024 % 4
    (nametableAddr v).toNat = 0x2000 + nt * 1024 + cy * 32 + cx ∧
    (attributeAddr v).toNat = 0x23C0 + nt * 1024 + cy / 4 * 8 + cx / 4 ∧
    (attributeBits v b).toNat = b.toNat / 2 ^ (cy / 2 % 2 * 4 + cx / 2 % 2 * 2) % 4 ∧
    (p.bgPatternAddr).toNat = (p.ctrl.getLsbD 4).toNat * 4096 + p.ntByte.toNat * 16 + p.v.toNat / 4096) ∧
  ∀ (s : State),
    let p := s.ppu
    let q := (ppuDot s).ppu
    let read (a : PpuAddr) : Byte := ppuRead s.cart s.mem a
    let fetches (phase : Nat) : Prop :=
      Rendering s ∧ ((1 ≤ p.dot ∧ p.dot ≤ 256) ∨ (321 ≤ p.dot ∧ p.dot ≤ 336)) ∧ (p.dot - 1) % 8 = phase
    let shifts : Prop := Rendering s ∧ ((2 ≤ p.dot ∧ p.dot ≤ 257) ∨ (322 ≤ p.dot ∧ p.dot ≤ 337))
    let shifter (old new : BitVec 16) (load : Byte) : Prop :=
      (shifts → p.dot % 8 = 1 → new.toNat = old.toNat * 2 / 256 % 256 * 256 + load.toNat) ∧
      (shifts → p.dot % 8 ≠ 1 → new.toNat = old.toNat * 2 % 65536) ∧ (¬shifts → new = old)
    let spread (b : Bool) : Byte := if b then 0xFF else 0x00
    ((fetches 0 → q.ntByte = read (nametableAddr p.v)) ∧ (¬fetches 0 → q.ntByte = p.ntByte)) ∧
    ((fetches 2 → q.atBits = attributeBits p.v (read (attributeAddr p.v))) ∧ (¬fetches 2 → q.atBits = p.atBits)) ∧
    ((fetches 4 → q.ptLo = read p.bgPatternAddr) ∧ (¬fetches 4 → q.ptLo = p.ptLo)) ∧
    ((fetches 6 → q.ptHi = read (p.bgPatternAddr + 8)) ∧ (¬fetches 6 → q.ptHi = p.ptHi)) ∧
    shifter p.bgLo q.bgLo p.ptLo ∧ shifter p.bgHi q.bgHi p.ptHi ∧
    shifter p.atLo q.atLo (spread (p.atBits.getLsbD 0)) ∧ shifter p.atHi q.atHi (spread (p.atBits.getLsbD 1))

/-- Sprite evaluation (R360 to R364). The scan: of the 64 entries, in index order, those in range on line n are counted; the
first eight go to secondary OAM in that order, a ninth sets the overflow flag, and sprite 0 is noted. The dots: with
rendering on, dot 64 of a visible line clears secondary OAM and dot 256 scans; no other dot changes secondary OAM, and
none but dot 256 sets the overflow flag, which only the vblank edge clears. The spec's decisions D33 and D42. That a line of the
picture that `PRE_RENDER_LINE` also names has no sprite phase is the model's choice, log entry 25. -/
def Obligations.SpriteEvaluation : Prop :=
  (∀ (m : Memory) (n : Nat) (p : Ppu), p.secCount = 0 →
    let height := if p.ctrl.getLsbD 5 then 16 else 8
    let hits := (List.range 64).filter fun i =>
      decide ((m.oamByte (4 * i)).toNat ≤ n ∧ n - (m.oamByte (4 * i)).toNat < height)
    let q := scanEntries m n 64 p
    q.secCount = min 8 hits.length ∧
    q.overflow = (p.overflow || decide (8 < hits.length)) ∧
    q.secHas0 = (p.secHas0 || hits.contains 0) ∧
    (∀ (k : Nat) (hk : k < 8) (hl : k < hits.length), q.sec[k] =
      ⟨m.oamByte (4 * hits[k]), m.oamByte (4 * hits[k] + 1), m.oamByte (4 * hits[k] + 2),
        m.oamByte (4 * hits[k] + 3)⟩) ∧
    (∀ (k : Nat) (hk : k < 8), hits.length ≤ k → q.sec[k] = p.sec[k])) ∧
  ∀ (s : State),
    let p := s.ppu
    let q := (ppuDot s).ppu
    let kept := afterEdge s p.overflow
    let scanned := scanEntries s.mem p.scanline 64 { p with overflow := kept }
    (VisibleWork s → p.dot = 64 → q.secCount = 0 ∧ q.secHas0 = false ∧
      ∀ j : Fin 8, q.sec[j] = ⟨0xFF, 0xFF, 0xFF, 0xFF⟩) ∧
    (VisibleWork s → p.dot = 256 → q.secCount = scanned.secCount ∧ q.secHas0 = scanned.secHas0 ∧
      q.sec = scanned.sec ∧ q.overflow = scanned.overflow) ∧
    (¬(VisibleWork s ∧ (p.dot = 64 ∨ p.dot = 256)) →
      q.secCount = p.secCount ∧ q.secHas0 = p.secHas0 ∧ q.sec = p.sec) ∧
    (¬(VisibleWork s ∧ p.dot = 256) → q.overflow = kept)

/-- The sprite pattern fetch (R365, R366, R367). One sprite: the row, flipped vertically where asked and reduced to the height
in force, the address for both heights, the horizontal flip. The dots: with rendering on, dot 320 of a visible line loads
the slots below the count from secondary OAM, keeps the others, and hands the count and the sprite-0 bit on; dot 320 of the
pre-render line empties the line; no other dot changes it. The formulas are the spec's decision D44, the dots its D33. That a
`PRE_RENDER_LINE` among the lines of the picture empties the line too is the model's choice, log entry 25. -/
def Obligations.SpritePatternFetch : Prop :=
  (∀ (c : Cartridge) (m : Memory) (n : Nat) (e : Sprite) (p : Ppu),
    let height : Nat := if p.ctrl.getLsbD 5 then 16 else 8
    let distance : Int := (n : Int) - e.y.toNat
    let row : Nat := ((if e.attr.getLsbD 7 then height - 1 - distance else distance) % height).toNat
    let address :=
      if p.ctrl.getLsbD 5 then e.tile.toNat % 2 * 4096 + (e.tile.toNat / 2 * 2 + row / 8) * 16 + row % 8
      else (p.ctrl.getLsbD 3).toNat * 4096 + e.tile.toNat * 16 + row
    let lo := ppuRead c m (BitVec.ofNat 14 address)
    let hi := ppuRead c m (BitVec.ofNat 14 (address + 8))
    let q := p.loadSprite c m n e
    q.attr = e.attr ∧ q.xpos = e.x ∧
    ∀ k, k < 8 →
      q.lo.getLsbD k = lo.getLsbD (if e.attr.getLsbD 6 then 7 - k else k) ∧
      q.hi.getLsbD k = hi.getLsbD (if e.attr.getLsbD 6 then 7 - k else k)) ∧
  ∀ (s : State),
    let p := s.ppu
    let q := (ppuDot s).ppu
    (VisibleWork s → p.dot = 320 → q.lineCount = p.secCount ∧ q.lineHas0 = p.secHas0 ∧
      ∀ j : Fin 8, q.line[j] = if j < p.secCount then p.loadSprite s.cart s.mem p.scanline p.sec[j] else p.line[j]) ∧
    (Rendering s → p.scanline = s.params.preRenderLine → p.dot = 320 →
      q.lineCount = 0 ∧ q.lineHas0 = false ∧ q.line = p.line) ∧
    (¬(Rendering s ∧ p.dot = 320) → q.lineCount = p.lineCount ∧ q.lineHas0 = p.lineHas0 ∧ q.line = p.line)

/-- Which sprite shows at a column (R368): the lowest-numbered one of the line with an opaque pixel there, whatever
its priority, where sprites are enabled at the column; and the pixel of a sprite of the line: bit 7 of its two rows at its
left edge, bit 0 seven columns on, 0 outside. That a hidden sprite still wins is the spec's general knowledge. -/
def Obligations.LowestOpaqueSpriteWins : Prop :=
  (∀ (q : LineSprite) (x : Nat),
    let bits (off : Nat) : Nat := q.hi.toNat / 2 ^ (7 - off) % 2 * 2 + q.lo.toNat / 2 ^ (7 - off) % 2
    (q.pixel x).toNat =
      if q.xpos.toNat ≤ x ∧ x ≤ q.xpos.toNat + 7 then bits (x - q.xpos.toNat) else 0) ∧
  ∀ (p : Ppu) (x j : Nat) (q : LineSprite),
    (p.spriteAt x = some (j, q) ↔
      p.mask.getLsbD 4 = true ∧ ¬(x < 8 ∧ p.mask.getLsbD 2 = false) ∧ j < p.lineCount ∧
        p.line.toList[j]? = some q ∧ q.pixel x ≠ 0 ∧
        ∀ i r, i < j → p.line.toList[i]? = some r → r.pixel x = 0)

/-- The pixel of a dot (R345, R358, R370, R371, R372, R373): at dots 1 to 256 of a visible line the dot emits the colour of
the palette entry that the priority table chooses from the background pixel and the sprite pixel, entry 0 with rendering
off, masked for greyscale, with the emphasis bits. The background pixel and palette are bit 15 - x of the shifters as the
dot leaves them, none where the background or its left column is off. At other dots it emits nothing. The sprite-0 hit is
set at such a dot under its condition and by no other dot, and only the vblank edge clears it. The boundary dots are the
spec's decision D34, the pixel event its D35; that the event is the field `ppu.pixel`, none at other dots, is the model's
choice, log entry 5. -/
def Obligations.PixelOutput : Prop :=
  ∀ (s : State),
    let q := (ppuDot s).ppu
    let mask := s.ppu.mask
    let x := s.ppu.dot - 1
    let bit (r : BitVec 16) : Nat := (r.getLsbD (15 - s.ppu.x.toNat)).toNat
    let bgp : Nat :=
      if mask.getLsbD 3 = false ∨ (x < 8 ∧ mask.getLsbD 1 = false) then 0 else bit q.bgHi * 2 + bit q.bgLo
    let background : Nat := (bit q.atHi * 2 + bit q.atLo) * 4 + bgp
    let sprite (e : LineSprite) : Nat := 16 + e.attr.toNat % 4 * 4 + (e.pixel x).toNat
    let entry : Nat :=
      if mask.getLsbD 3 = false ∧ mask.getLsbD 4 = false then 0
      else match q.spriteAt x with
        | none => if bgp = 0 then 0 else background
        | some (_, e) => if bgp = 0 ∨ e.attr.getLsbD 5 = false then sprite e else background
    let cell := s.mem.palCell (if entry % 4 = 0 then entry % 16 else entry)
    let hit : Prop := (∃ e, q.spriteAt x = some (0, e)) ∧ bgp ≠ 0 ∧ q.lineHas0 = true ∧
      mask.getLsbD 3 = true ∧ mask.getLsbD 4 = true ∧ x ≠ 255
    let kept := afterEdge s s.ppu.s0hit
    if s.ppu.scanline ≤ 239 ∧ 1 ≤ s.ppu.dot ∧ s.ppu.dot ≤ 256 then
      q.pixel = some
        { x := x, y := s.ppu.scanline
          colour := if mask.getLsbD 0 then BitVec.ofNat 6 (cell.toNat / 16 * 16) else cell
          emphasis := BitVec.ofNat 3 (mask.toNat / 32) } ∧
      (q.s0hit = true ↔ kept = true ∨ hit)
    else q.pixel = none ∧ q.s0hit = kept

/-! ## The invariant -/

/-- The invariant holds of the machine after reset: with every admitted set of parameters and every cartridge whose images
are in canonical form, so with the blank cartridge of log entry 4 and the spec's parameters, and after a later reset of a
machine that meets it. The counters and the sprite counts are in bounds, the NMI line follows vblank, every array is in its
canonical form (R48, R50, R51, R57, R471; the canonical form is the model's own, log entry 6). -/
def Obligations.ResetMeetsTheInvariant : Prop :=
  (∀ (k : Params) (c : Cartridge), k.admitted = true → c.wf = true → Safety.Inv (State.powerOn k c)) ∧
  Safety.Inv State.reset ∧ ∀ s : State, Safety.Inv s → Safety.Inv (resetMachine s)

/-- Every step keeps the invariant, from every state that meets it and not only from those a run reaches. The canonical form
of the arrays is the model's own, log entry 6. -/
def Obligations.EveryStepKeepsTheInvariant : Prop := ∀ (s t : State), Safety.Inv s → step s = .next t → Safety.Inv t
end

