-- ==== Sys2Proof/Laws/Cells.lean ====
section
/-! SUPPORT. The laws of sparse arrays: what a read gives after a write, and that every operation keeps the canonical form. -/

namespace Sys2Proof.Machine

variable {w : Nat}

/-- A read after a write: the value at the written index, the old value elsewhere. -/
theorem Cells.get_put (m : Cells w) (a b : Nat) (v : BitVec w) :
    Cells.get (Cells.put m a v) b = if b = a then some v else Cells.get m b := by
  induction m with
  | nil => simp [Cells.put, Cells.get, eq_comm]
  | cons c m ih =>
    obtain ⟨k, u⟩ := c
    simp only [Cells.put]
    split
    · simp only [Cells.get]; grind
    · split
      · simp only [Cells.get]; grind
      · simp only [Cells.get, ih]; grind

@[simp] theorem Cells.get_put_same (m : Cells w) (a : Nat) (v : BitVec w) :
    Cells.get (Cells.put m a v) a = some v := by simp [Cells.get_put]

theorem Cells.get_put_other (m : Cells w) {a b : Nat} (v : BitVec w) (h : b ≠ a) :
    Cells.get (Cells.put m a v) b = Cells.get m b := by simp [Cells.get_put, h]

theorem Cells.risingFrom_mono {m : Cells w} {lo lo' : Nat} (h : Cells.risingFrom lo m = true) (hl : lo' ≤ lo) :
    Cells.risingFrom lo' m = true := by
  cases m with
  | nil => rfl
  | cons c m => obtain ⟨k, u⟩ := c; simp [Cells.risingFrom] at h ⊢; exact ⟨by omega, h.2⟩

theorem Cells.risingFrom_put {m : Cells w} {lo a : Nat} {v : BitVec w} (h : Cells.risingFrom lo m = true)
    (hl : lo ≤ a) : Cells.risingFrom lo (Cells.put m a v) = true := by
  induction m generalizing lo with
  | nil => simp [Cells.put, Cells.risingFrom, hl]
  | cons c m ih =>
    obtain ⟨k, u⟩ := c
    simp only [Cells.risingFrom, Bool.and_eq_true, decide_eq_true_eq] at h
    simp only [Cells.put]
    split
    · rename_i hk
      simp only [Cells.risingFrom, Bool.and_eq_true, decide_eq_true_eq]
      exact ⟨hl, hk, h.2⟩
    · split
      · rename_i hk; subst hk
        simp only [Cells.risingFrom, Bool.and_eq_true, decide_eq_true_eq]
        exact h
      · simp only [Cells.risingFrom, Bool.and_eq_true, decide_eq_true_eq]
        exact ⟨h.1, ih h.2 (by omega)⟩

theorem Cells.below_put {m : Cells w} {n a : Nat} {v : BitVec w} (h : Cells.below n m = true) (ha : a < n) :
    Cells.below n (Cells.put m a v) = true := by
  induction m with
  | nil => simp [Cells.put, Cells.below, ha]
  | cons c m ih =>
    obtain ⟨k, u⟩ := c
    simp only [Cells.below, List.all_cons, Bool.and_eq_true, decide_eq_true_eq] at h ih
    simp only [Cells.put]
    split
    · simp [Cells.below, ha, h.1]; simpa using h.2
    · split
      · simp [Cells.below, ha]; simpa using h.2
      · simp only [Cells.below, List.all_cons, Bool.and_eq_true, decide_eq_true_eq]
        exact ⟨h.1, ih h.2⟩

/-- A write inside the array keeps its canonical form. -/
theorem Cells.wf_put {m : Cells w} {n a : Nat} {v : BitVec w} (h : Cells.wf n m = true) (ha : a < n) :
    Cells.wf n (Cells.put m a v) = true := by
  simp only [Cells.wf, Bool.and_eq_true] at h ⊢
  exact ⟨Cells.risingFrom_put h.1 (by omega), Cells.below_put h.2 ha⟩

theorem Cells.risingFrom_drop {m : Cells w} {lo a : Nat} (h : Cells.risingFrom lo m = true) :
    Cells.risingFrom lo (Cells.drop m a) = true := by
  induction m generalizing lo with
  | nil => rfl
  | cons c m ih =>
    obtain ⟨k, u⟩ := c
    simp only [Cells.risingFrom, Bool.and_eq_true, decide_eq_true_eq] at h
    simp only [Cells.drop]
    split
    · exact Cells.risingFrom_mono h.2 (by omega)
    · simp only [Cells.risingFrom, Bool.and_eq_true, decide_eq_true_eq]
      exact ⟨h.1, ih h.2⟩

theorem Cells.all_drop {m : Cells w} {a : Nat} {p : Nat × BitVec w → Bool} (h : m.all p = true) :
    (Cells.drop m a).all p = true := by
  induction m with
  | nil => rfl
  | cons c m ih =>
    obtain ⟨k, u⟩ := c
    simp only [List.all_cons, Bool.and_eq_true] at h
    simp only [Cells.drop]
    split
    · exact h.2
    · simp only [List.all_cons, Bool.and_eq_true]; exact ⟨h.1, ih h.2⟩

theorem Cells.wf_drop {m : Cells w} {n a : Nat} (h : Cells.wf n m = true) : Cells.wf n (Cells.drop m a) = true := by
  simp only [Cells.wf, Bool.and_eq_true] at h ⊢
  exact ⟨Cells.risingFrom_drop h.1, Cells.all_drop h.2⟩

theorem Cells.noZero_put {m : Cells w} {a : Nat} {v : BitVec w} (h : Cells.noZero m = true) (hv : v ≠ 0#w) :
    Cells.noZero (Cells.put m a v) = true := by
  induction m with
  | nil => simp [Cells.put, Cells.noZero, hv]
  | cons c m ih =>
    obtain ⟨k, u⟩ := c
    simp only [Cells.noZero, List.all_cons, Bool.and_eq_true, decide_eq_true_eq] at h ih
    simp only [Cells.put]
    split
    · simp only [Cells.noZero, List.all_cons, Bool.and_eq_true, decide_eq_true_eq]; exact ⟨hv, h⟩
    · split
      · simp only [Cells.noZero, List.all_cons, Bool.and_eq_true, decide_eq_true_eq]; exact ⟨hv, h.2⟩
      · simp only [Cells.noZero, List.all_cons, Bool.and_eq_true, decide_eq_true_eq]; exact ⟨h.1, ih h.2⟩

/-- A write to a zero-filled array keeps both halves of its canonical form. -/
theorem Cells.wf_putZeroFill {m : Cells w} {n a : Nat} {v : BitVec w} (h : Cells.wf n m = true) (ha : a < n) :
    Cells.wf n (Cells.putZeroFill m a v) = true := by
  unfold Cells.putZeroFill; split
  · exact Cells.wf_drop h
  · exact Cells.wf_put h ha

theorem Cells.noZero_putZeroFill {m : Cells w} {a : Nat} {v : BitVec w} (h : Cells.noZero m = true) :
    Cells.noZero (Cells.putZeroFill m a v) = true := by
  unfold Cells.putZeroFill; split
  · exact Cells.all_drop h
  · exact Cells.noZero_put h ‹_›

theorem Cells.get_of_risingFrom {m : Cells w} {lo a : Nat} (h : Cells.risingFrom lo m = true) (ha : a < lo) :
    Cells.get m a = none := by
  induction m generalizing lo with
  | nil => rfl
  | cons c m ih =>
    obtain ⟨k, u⟩ := c
    simp only [Cells.risingFrom, Bool.and_eq_true, decide_eq_true_eq] at h
    simp only [Cells.get]
    rw [if_neg (by omega)]
    exact ih h.2 (by omega)

/-- A read after an entry is dropped from an array in canonical form: nothing there, the old value elsewhere. -/
theorem Cells.get_drop {m : Cells w} {lo : Nat} (h : Cells.risingFrom lo m = true) (a b : Nat) :
    Cells.get (Cells.drop m a) b = if b = a then none else Cells.get m b := by
  induction m generalizing lo with
  | nil => simp [Cells.drop, Cells.get]
  | cons c m ih =>
    obtain ⟨k, u⟩ := c
    simp only [Cells.risingFrom, Bool.and_eq_true, decide_eq_true_eq] at h
    simp only [Cells.drop]
    split
    · rename_i hk; subst hk
      split
      · rename_i hb; subst hb; exact Cells.get_of_risingFrom h.2 (by omega)
      · rename_i hb; simp [Cells.get, Ne.symm hb]
    · simp only [Cells.get, ih h.2]; grind

/-- A read after a write to a zero-filled array in canonical form gives the value written. -/
theorem Cells.getD_putZeroFill {m : Cells w} {n : Nat} (h : Cells.wf n m = true) (a b : Nat) (v : BitVec w) :
    (Cells.get (Cells.putZeroFill m a v) b).getD 0#w = if b = a then v else (Cells.get m b).getD 0#w := by
  simp only [Cells.wf, Bool.and_eq_true] at h
  unfold Cells.putZeroFill
  split
  · rw [Cells.get_drop h.1]; split <;> simp_all
  · rw [Cells.get_put]; split <;> simp_all

/-- Two arrays in canonical form that read alike are the same list. -/
theorem Cells.ext_of_get {m m' : Cells w} {lo lo' : Nat} (h : Cells.risingFrom lo m = true)
    (h' : Cells.risingFrom lo' m' = true) (hg : ∀ a, Cells.get m a = Cells.get m' a) : m = m' := by
  induction m generalizing m' lo lo' with
  | nil =>
    cases m' with
    | nil => rfl
    | cons c m' => obtain ⟨k, u⟩ := c; have := hg k; simp [Cells.get] at this
  | cons c m ih =>
    obtain ⟨k, u⟩ := c
    cases m' with
    | nil => have := hg k; simp [Cells.get] at this
    | cons c' m' =>
      obtain ⟨k', u'⟩ := c'
      simp only [Cells.risingFrom, Bool.and_eq_true, decide_eq_true_eq] at h h'
      have hk : k = k' := by
        by_contra hne
        by_cases hlt : k < k'
        · have h1 := hg k
          have h2 : Cells.get ((k', u') :: m') k = none :=
            Cells.get_of_risingFrom (lo := k') (by simp [Cells.risingFrom, h'.2]) hlt
          rw [h2] at h1; simp [Cells.get] at h1
        · have h1 := hg k'
          have h2 : Cells.get ((k, u) :: m) k' = none :=
            Cells.get_of_risingFrom (lo := k) (by simp [Cells.risingFrom, h.2]) (by omega)
          rw [h2] at h1; simp [Cells.get] at h1
      subst hk
      have hu : u = u' := by have := hg k; simpa [Cells.get] using this
      subst hu
      congr 1
      refine ih h.2 h'.2 fun a => ?_
      have := hg a
      simp only [Cells.get] at this
      by_cases ha : k = a
      · subst ha; rw [Cells.get_of_risingFrom h.2 (by omega), Cells.get_of_risingFrom h'.2 (by omega)]
      · simpa [ha] using this

end Sys2Proof.Machine
end

