-- ==== Sys2Proof/Laws/State.lean ====
section
/-! SUPPORT. One lemma per field per update of State: what each update leaves in each field. -/

namespace Sys2Proof.Machine

variable (s : State)

@[simp] theorem State.setA_cpu_a (v : Byte) : (s.setA v).cpu.a = v := rfl
@[simp] theorem State.setA_cpu_x (v : Byte) : (s.setA v).cpu.x = s.cpu.x := rfl
@[simp] theorem State.setA_cpu_y (v : Byte) : (s.setA v).cpu.y = s.cpu.y := rfl
@[simp] theorem State.setA_cpu_sp (v : Byte) : (s.setA v).cpu.sp = s.cpu.sp := rfl
@[simp] theorem State.setA_cpu_pc (v : Byte) : (s.setA v).cpu.pc = s.cpu.pc := rfl
@[simp] theorem State.setA_cpu_p (v : Byte) : (s.setA v).cpu.p = s.cpu.p := rfl
@[simp] theorem State.setA_cpu_nmiPending (v : Byte) : (s.setA v).cpu.nmiPending = s.cpu.nmiPending := rfl
@[simp] theorem State.setA_cpu_stall (v : Byte) : (s.setA v).cpu.stall = s.cpu.stall := rfl
@[simp] theorem State.setA_cpu_cyc (v : Byte) : (s.setA v).cpu.cyc = s.cpu.cyc := rfl
@[simp] theorem State.setA_ppu (v : Byte) : (s.setA v).ppu = s.ppu := rfl
@[simp] theorem State.setA_mem (v : Byte) : (s.setA v).mem = s.mem := rfl
@[simp] theorem State.setA_cart (v : Byte) : (s.setA v).cart = s.cart := rfl
@[simp] theorem State.setA_params (v : Byte) : (s.setA v).params = s.params := rfl
@[simp] theorem State.setA_halted (v : Byte) : (s.setA v).halted = s.halted := rfl
@[simp] theorem State.setA_master (v : Byte) : (s.setA v).master = s.master := rfl
@[simp] theorem State.setA_irqLine (v : Byte) : (s.setA v).irqLine = s.irqLine := rfl
@[simp] theorem State.setA_draws (v : Byte) : (s.setA v).draws = s.draws := rfl

@[simp] theorem State.setX_cpu_a (v : Byte) : (s.setX v).cpu.a = s.cpu.a := rfl
@[simp] theorem State.setX_cpu_x (v : Byte) : (s.setX v).cpu.x = v := rfl
@[simp] theorem State.setX_cpu_y (v : Byte) : (s.setX v).cpu.y = s.cpu.y := rfl
@[simp] theorem State.setX_cpu_sp (v : Byte) : (s.setX v).cpu.sp = s.cpu.sp := rfl
@[simp] theorem State.setX_cpu_pc (v : Byte) : (s.setX v).cpu.pc = s.cpu.pc := rfl
@[simp] theorem State.setX_cpu_p (v : Byte) : (s.setX v).cpu.p = s.cpu.p := rfl
@[simp] theorem State.setX_cpu_nmiPending (v : Byte) : (s.setX v).cpu.nmiPending = s.cpu.nmiPending := rfl
@[simp] theorem State.setX_cpu_stall (v : Byte) : (s.setX v).cpu.stall = s.cpu.stall := rfl
@[simp] theorem State.setX_cpu_cyc (v : Byte) : (s.setX v).cpu.cyc = s.cpu.cyc := rfl
@[simp] theorem State.setX_ppu (v : Byte) : (s.setX v).ppu = s.ppu := rfl
@[simp] theorem State.setX_mem (v : Byte) : (s.setX v).mem = s.mem := rfl
@[simp] theorem State.setX_cart (v : Byte) : (s.setX v).cart = s.cart := rfl
@[simp] theorem State.setX_params (v : Byte) : (s.setX v).params = s.params := rfl
@[simp] theorem State.setX_halted (v : Byte) : (s.setX v).halted = s.halted := rfl
@[simp] theorem State.setX_master (v : Byte) : (s.setX v).master = s.master := rfl
@[simp] theorem State.setX_irqLine (v : Byte) : (s.setX v).irqLine = s.irqLine := rfl
@[simp] theorem State.setX_draws (v : Byte) : (s.setX v).draws = s.draws := rfl

@[simp] theorem State.setY_cpu_a (v : Byte) : (s.setY v).cpu.a = s.cpu.a := rfl
@[simp] theorem State.setY_cpu_x (v : Byte) : (s.setY v).cpu.x = s.cpu.x := rfl
@[simp] theorem State.setY_cpu_y (v : Byte) : (s.setY v).cpu.y = v := rfl
@[simp] theorem State.setY_cpu_sp (v : Byte) : (s.setY v).cpu.sp = s.cpu.sp := rfl
@[simp] theorem State.setY_cpu_pc (v : Byte) : (s.setY v).cpu.pc = s.cpu.pc := rfl
@[simp] theorem State.setY_cpu_p (v : Byte) : (s.setY v).cpu.p = s.cpu.p := rfl
@[simp] theorem State.setY_cpu_nmiPending (v : Byte) : (s.setY v).cpu.nmiPending = s.cpu.nmiPending := rfl
@[simp] theorem State.setY_cpu_stall (v : Byte) : (s.setY v).cpu.stall = s.cpu.stall := rfl
@[simp] theorem State.setY_cpu_cyc (v : Byte) : (s.setY v).cpu.cyc = s.cpu.cyc := rfl
@[simp] theorem State.setY_ppu (v : Byte) : (s.setY v).ppu = s.ppu := rfl
@[simp] theorem State.setY_mem (v : Byte) : (s.setY v).mem = s.mem := rfl
@[simp] theorem State.setY_cart (v : Byte) : (s.setY v).cart = s.cart := rfl
@[simp] theorem State.setY_params (v : Byte) : (s.setY v).params = s.params := rfl
@[simp] theorem State.setY_halted (v : Byte) : (s.setY v).halted = s.halted := rfl
@[simp] theorem State.setY_master (v : Byte) : (s.setY v).master = s.master := rfl
@[simp] theorem State.setY_irqLine (v : Byte) : (s.setY v).irqLine = s.irqLine := rfl
@[simp] theorem State.setY_draws (v : Byte) : (s.setY v).draws = s.draws := rfl

@[simp] theorem State.setSp_cpu_a (v : Byte) : (s.setSp v).cpu.a = s.cpu.a := rfl
@[simp] theorem State.setSp_cpu_x (v : Byte) : (s.setSp v).cpu.x = s.cpu.x := rfl
@[simp] theorem State.setSp_cpu_y (v : Byte) : (s.setSp v).cpu.y = s.cpu.y := rfl
@[simp] theorem State.setSp_cpu_sp (v : Byte) : (s.setSp v).cpu.sp = v := rfl
@[simp] theorem State.setSp_cpu_pc (v : Byte) : (s.setSp v).cpu.pc = s.cpu.pc := rfl
@[simp] theorem State.setSp_cpu_p (v : Byte) : (s.setSp v).cpu.p = s.cpu.p := rfl
@[simp] theorem State.setSp_cpu_nmiPending (v : Byte) : (s.setSp v).cpu.nmiPending = s.cpu.nmiPending := rfl
@[simp] theorem State.setSp_cpu_stall (v : Byte) : (s.setSp v).cpu.stall = s.cpu.stall := rfl
@[simp] theorem State.setSp_cpu_cyc (v : Byte) : (s.setSp v).cpu.cyc = s.cpu.cyc := rfl
@[simp] theorem State.setSp_ppu (v : Byte) : (s.setSp v).ppu = s.ppu := rfl
@[simp] theorem State.setSp_mem (v : Byte) : (s.setSp v).mem = s.mem := rfl
@[simp] theorem State.setSp_cart (v : Byte) : (s.setSp v).cart = s.cart := rfl
@[simp] theorem State.setSp_params (v : Byte) : (s.setSp v).params = s.params := rfl
@[simp] theorem State.setSp_halted (v : Byte) : (s.setSp v).halted = s.halted := rfl
@[simp] theorem State.setSp_master (v : Byte) : (s.setSp v).master = s.master := rfl
@[simp] theorem State.setSp_irqLine (v : Byte) : (s.setSp v).irqLine = s.irqLine := rfl
@[simp] theorem State.setSp_draws (v : Byte) : (s.setSp v).draws = s.draws := rfl

@[simp] theorem State.setPc_cpu_a (v : Word) : (s.setPc v).cpu.a = s.cpu.a := rfl
@[simp] theorem State.setPc_cpu_x (v : Word) : (s.setPc v).cpu.x = s.cpu.x := rfl
@[simp] theorem State.setPc_cpu_y (v : Word) : (s.setPc v).cpu.y = s.cpu.y := rfl
@[simp] theorem State.setPc_cpu_sp (v : Word) : (s.setPc v).cpu.sp = s.cpu.sp := rfl
@[simp] theorem State.setPc_cpu_pc (v : Word) : (s.setPc v).cpu.pc = v := rfl
@[simp] theorem State.setPc_cpu_p (v : Word) : (s.setPc v).cpu.p = s.cpu.p := rfl
@[simp] theorem State.setPc_cpu_nmiPending (v : Word) : (s.setPc v).cpu.nmiPending = s.cpu.nmiPending := rfl
@[simp] theorem State.setPc_cpu_stall (v : Word) : (s.setPc v).cpu.stall = s.cpu.stall := rfl
@[simp] theorem State.setPc_cpu_cyc (v : Word) : (s.setPc v).cpu.cyc = s.cpu.cyc := rfl
@[simp] theorem State.setPc_ppu (v : Word) : (s.setPc v).ppu = s.ppu := rfl
@[simp] theorem State.setPc_mem (v : Word) : (s.setPc v).mem = s.mem := rfl
@[simp] theorem State.setPc_cart (v : Word) : (s.setPc v).cart = s.cart := rfl
@[simp] theorem State.setPc_params (v : Word) : (s.setPc v).params = s.params := rfl
@[simp] theorem State.setPc_halted (v : Word) : (s.setPc v).halted = s.halted := rfl
@[simp] theorem State.setPc_master (v : Word) : (s.setPc v).master = s.master := rfl
@[simp] theorem State.setPc_irqLine (v : Word) : (s.setPc v).irqLine = s.irqLine := rfl
@[simp] theorem State.setPc_draws (v : Word) : (s.setPc v).draws = s.draws := rfl

@[simp] theorem State.setFlags_cpu_a (v : Flags) : (s.setFlags v).cpu.a = s.cpu.a := rfl
@[simp] theorem State.setFlags_cpu_x (v : Flags) : (s.setFlags v).cpu.x = s.cpu.x := rfl
@[simp] theorem State.setFlags_cpu_y (v : Flags) : (s.setFlags v).cpu.y = s.cpu.y := rfl
@[simp] theorem State.setFlags_cpu_sp (v : Flags) : (s.setFlags v).cpu.sp = s.cpu.sp := rfl
@[simp] theorem State.setFlags_cpu_pc (v : Flags) : (s.setFlags v).cpu.pc = s.cpu.pc := rfl
@[simp] theorem State.setFlags_cpu_p (v : Flags) : (s.setFlags v).cpu.p = v := rfl
@[simp] theorem State.setFlags_cpu_nmiPending (v : Flags) : (s.setFlags v).cpu.nmiPending = s.cpu.nmiPending := rfl
@[simp] theorem State.setFlags_cpu_stall (v : Flags) : (s.setFlags v).cpu.stall = s.cpu.stall := rfl
@[simp] theorem State.setFlags_cpu_cyc (v : Flags) : (s.setFlags v).cpu.cyc = s.cpu.cyc := rfl
@[simp] theorem State.setFlags_ppu (v : Flags) : (s.setFlags v).ppu = s.ppu := rfl
@[simp] theorem State.setFlags_mem (v : Flags) : (s.setFlags v).mem = s.mem := rfl
@[simp] theorem State.setFlags_cart (v : Flags) : (s.setFlags v).cart = s.cart := rfl
@[simp] theorem State.setFlags_params (v : Flags) : (s.setFlags v).params = s.params := rfl
@[simp] theorem State.setFlags_halted (v : Flags) : (s.setFlags v).halted = s.halted := rfl
@[simp] theorem State.setFlags_master (v : Flags) : (s.setFlags v).master = s.master := rfl
@[simp] theorem State.setFlags_irqLine (v : Flags) : (s.setFlags v).irqLine = s.irqLine := rfl
@[simp] theorem State.setFlags_draws (v : Flags) : (s.setFlags v).draws = s.draws := rfl

@[simp] theorem State.setStall_cpu_a (v : Nat) : (s.setStall v).cpu.a = s.cpu.a := rfl
@[simp] theorem State.setStall_cpu_x (v : Nat) : (s.setStall v).cpu.x = s.cpu.x := rfl
@[simp] theorem State.setStall_cpu_y (v : Nat) : (s.setStall v).cpu.y = s.cpu.y := rfl
@[simp] theorem State.setStall_cpu_sp (v : Nat) : (s.setStall v).cpu.sp = s.cpu.sp := rfl
@[simp] theorem State.setStall_cpu_pc (v : Nat) : (s.setStall v).cpu.pc = s.cpu.pc := rfl
@[simp] theorem State.setStall_cpu_p (v : Nat) : (s.setStall v).cpu.p = s.cpu.p := rfl
@[simp] theorem State.setStall_cpu_nmiPending (v : Nat) : (s.setStall v).cpu.nmiPending = s.cpu.nmiPending := rfl
@[simp] theorem State.setStall_cpu_stall (v : Nat) : (s.setStall v).cpu.stall = v := rfl
@[simp] theorem State.setStall_cpu_cyc (v : Nat) : (s.setStall v).cpu.cyc = s.cpu.cyc := rfl
@[simp] theorem State.setStall_ppu (v : Nat) : (s.setStall v).ppu = s.ppu := rfl
@[simp] theorem State.setStall_mem (v : Nat) : (s.setStall v).mem = s.mem := rfl
@[simp] theorem State.setStall_cart (v : Nat) : (s.setStall v).cart = s.cart := rfl
@[simp] theorem State.setStall_params (v : Nat) : (s.setStall v).params = s.params := rfl
@[simp] theorem State.setStall_halted (v : Nat) : (s.setStall v).halted = s.halted := rfl
@[simp] theorem State.setStall_master (v : Nat) : (s.setStall v).master = s.master := rfl
@[simp] theorem State.setStall_irqLine (v : Nat) : (s.setStall v).irqLine = s.irqLine := rfl
@[simp] theorem State.setStall_draws (v : Nat) : (s.setStall v).draws = s.draws := rfl

@[simp] theorem State.setCyc_cpu_a (v : Nat) : (s.setCyc v).cpu.a = s.cpu.a := rfl
@[simp] theorem State.setCyc_cpu_x (v : Nat) : (s.setCyc v).cpu.x = s.cpu.x := rfl
@[simp] theorem State.setCyc_cpu_y (v : Nat) : (s.setCyc v).cpu.y = s.cpu.y := rfl
@[simp] theorem State.setCyc_cpu_sp (v : Nat) : (s.setCyc v).cpu.sp = s.cpu.sp := rfl
@[simp] theorem State.setCyc_cpu_pc (v : Nat) : (s.setCyc v).cpu.pc = s.cpu.pc := rfl
@[simp] theorem State.setCyc_cpu_p (v : Nat) : (s.setCyc v).cpu.p = s.cpu.p := rfl
@[simp] theorem State.setCyc_cpu_nmiPending (v : Nat) : (s.setCyc v).cpu.nmiPending = s.cpu.nmiPending := rfl
@[simp] theorem State.setCyc_cpu_stall (v : Nat) : (s.setCyc v).cpu.stall = s.cpu.stall := rfl
@[simp] theorem State.setCyc_cpu_cyc (v : Nat) : (s.setCyc v).cpu.cyc = v := rfl
@[simp] theorem State.setCyc_ppu (v : Nat) : (s.setCyc v).ppu = s.ppu := rfl
@[simp] theorem State.setCyc_mem (v : Nat) : (s.setCyc v).mem = s.mem := rfl
@[simp] theorem State.setCyc_cart (v : Nat) : (s.setCyc v).cart = s.cart := rfl
@[simp] theorem State.setCyc_params (v : Nat) : (s.setCyc v).params = s.params := rfl
@[simp] theorem State.setCyc_halted (v : Nat) : (s.setCyc v).halted = s.halted := rfl
@[simp] theorem State.setCyc_master (v : Nat) : (s.setCyc v).master = s.master := rfl
@[simp] theorem State.setCyc_irqLine (v : Nat) : (s.setCyc v).irqLine = s.irqLine := rfl
@[simp] theorem State.setCyc_draws (v : Nat) : (s.setCyc v).draws = s.draws := rfl

@[simp] theorem State.setNmiPending_cpu_a (v : Bool) : (s.setNmiPending v).cpu.a = s.cpu.a := rfl
@[simp] theorem State.setNmiPending_cpu_x (v : Bool) : (s.setNmiPending v).cpu.x = s.cpu.x := rfl
@[simp] theorem State.setNmiPending_cpu_y (v : Bool) : (s.setNmiPending v).cpu.y = s.cpu.y := rfl
@[simp] theorem State.setNmiPending_cpu_sp (v : Bool) : (s.setNmiPending v).cpu.sp = s.cpu.sp := rfl
@[simp] theorem State.setNmiPending_cpu_pc (v : Bool) : (s.setNmiPending v).cpu.pc = s.cpu.pc := rfl
@[simp] theorem State.setNmiPending_cpu_p (v : Bool) : (s.setNmiPending v).cpu.p = s.cpu.p := rfl
@[simp] theorem State.setNmiPending_cpu_nmiPending (v : Bool) : (s.setNmiPending v).cpu.nmiPending = v := rfl
@[simp] theorem State.setNmiPending_cpu_stall (v : Bool) : (s.setNmiPending v).cpu.stall = s.cpu.stall := rfl
@[simp] theorem State.setNmiPending_cpu_cyc (v : Bool) : (s.setNmiPending v).cpu.cyc = s.cpu.cyc := rfl
@[simp] theorem State.setNmiPending_ppu (v : Bool) : (s.setNmiPending v).ppu = s.ppu := rfl
@[simp] theorem State.setNmiPending_mem (v : Bool) : (s.setNmiPending v).mem = s.mem := rfl
@[simp] theorem State.setNmiPending_cart (v : Bool) : (s.setNmiPending v).cart = s.cart := rfl
@[simp] theorem State.setNmiPending_params (v : Bool) : (s.setNmiPending v).params = s.params := rfl
@[simp] theorem State.setNmiPending_halted (v : Bool) : (s.setNmiPending v).halted = s.halted := rfl
@[simp] theorem State.setNmiPending_master (v : Bool) : (s.setNmiPending v).master = s.master := rfl
@[simp] theorem State.setNmiPending_irqLine (v : Bool) : (s.setNmiPending v).irqLine = s.irqLine := rfl
@[simp] theorem State.setNmiPending_draws (v : Bool) : (s.setNmiPending v).draws = s.draws := rfl

@[simp] theorem State.setPpu_cpu_a (v : Ppu) : (s.setPpu v).cpu.a = s.cpu.a := rfl
@[simp] theorem State.setPpu_cpu_x (v : Ppu) : (s.setPpu v).cpu.x = s.cpu.x := rfl
@[simp] theorem State.setPpu_cpu_y (v : Ppu) : (s.setPpu v).cpu.y = s.cpu.y := rfl
@[simp] theorem State.setPpu_cpu_sp (v : Ppu) : (s.setPpu v).cpu.sp = s.cpu.sp := rfl
@[simp] theorem State.setPpu_cpu_pc (v : Ppu) : (s.setPpu v).cpu.pc = s.cpu.pc := rfl
@[simp] theorem State.setPpu_cpu_p (v : Ppu) : (s.setPpu v).cpu.p = s.cpu.p := rfl
@[simp] theorem State.setPpu_cpu_nmiPending (v : Ppu) : (s.setPpu v).cpu.nmiPending = s.cpu.nmiPending := rfl
@[simp] theorem State.setPpu_cpu_stall (v : Ppu) : (s.setPpu v).cpu.stall = s.cpu.stall := rfl
@[simp] theorem State.setPpu_cpu_cyc (v : Ppu) : (s.setPpu v).cpu.cyc = s.cpu.cyc := rfl
@[simp] theorem State.setPpu_ppu (v : Ppu) : (s.setPpu v).ppu = v := rfl
@[simp] theorem State.setPpu_mem (v : Ppu) : (s.setPpu v).mem = s.mem := rfl
@[simp] theorem State.setPpu_cart (v : Ppu) : (s.setPpu v).cart = s.cart := rfl
@[simp] theorem State.setPpu_params (v : Ppu) : (s.setPpu v).params = s.params := rfl
@[simp] theorem State.setPpu_halted (v : Ppu) : (s.setPpu v).halted = s.halted := rfl
@[simp] theorem State.setPpu_master (v : Ppu) : (s.setPpu v).master = s.master := rfl
@[simp] theorem State.setPpu_irqLine (v : Ppu) : (s.setPpu v).irqLine = s.irqLine := rfl
@[simp] theorem State.setPpu_draws (v : Ppu) : (s.setPpu v).draws = s.draws := rfl
@[simp] theorem State.setPpu_cpu (v : Ppu) : (s.setPpu v).cpu = s.cpu := rfl

@[simp] theorem State.setMem_cpu_a (v : Memory) : (s.setMem v).cpu.a = s.cpu.a := rfl
@[simp] theorem State.setMem_cpu_x (v : Memory) : (s.setMem v).cpu.x = s.cpu.x := rfl
@[simp] theorem State.setMem_cpu_y (v : Memory) : (s.setMem v).cpu.y = s.cpu.y := rfl
@[simp] theorem State.setMem_cpu_sp (v : Memory) : (s.setMem v).cpu.sp = s.cpu.sp := rfl
@[simp] theorem State.setMem_cpu_pc (v : Memory) : (s.setMem v).cpu.pc = s.cpu.pc := rfl
@[simp] theorem State.setMem_cpu_p (v : Memory) : (s.setMem v).cpu.p = s.cpu.p := rfl
@[simp] theorem State.setMem_cpu_nmiPending (v : Memory) : (s.setMem v).cpu.nmiPending = s.cpu.nmiPending := rfl
@[simp] theorem State.setMem_cpu_stall (v : Memory) : (s.setMem v).cpu.stall = s.cpu.stall := rfl
@[simp] theorem State.setMem_cpu_cyc (v : Memory) : (s.setMem v).cpu.cyc = s.cpu.cyc := rfl
@[simp] theorem State.setMem_ppu (v : Memory) : (s.setMem v).ppu = s.ppu := rfl
@[simp] theorem State.setMem_mem (v : Memory) : (s.setMem v).mem = v := rfl
@[simp] theorem State.setMem_cart (v : Memory) : (s.setMem v).cart = s.cart := rfl
@[simp] theorem State.setMem_params (v : Memory) : (s.setMem v).params = s.params := rfl
@[simp] theorem State.setMem_halted (v : Memory) : (s.setMem v).halted = s.halted := rfl
@[simp] theorem State.setMem_master (v : Memory) : (s.setMem v).master = s.master := rfl
@[simp] theorem State.setMem_irqLine (v : Memory) : (s.setMem v).irqLine = s.irqLine := rfl
@[simp] theorem State.setMem_draws (v : Memory) : (s.setMem v).draws = s.draws := rfl
@[simp] theorem State.setMem_cpu (v : Memory) : (s.setMem v).cpu = s.cpu := rfl

@[simp] theorem State.setZN_cpu_a (v : Byte) : (s.setZN v).cpu.a = s.cpu.a := rfl
@[simp] theorem State.setZN_cpu_x (v : Byte) : (s.setZN v).cpu.x = s.cpu.x := rfl
@[simp] theorem State.setZN_cpu_y (v : Byte) : (s.setZN v).cpu.y = s.cpu.y := rfl
@[simp] theorem State.setZN_cpu_sp (v : Byte) : (s.setZN v).cpu.sp = s.cpu.sp := rfl
@[simp] theorem State.setZN_cpu_pc (v : Byte) : (s.setZN v).cpu.pc = s.cpu.pc := rfl
@[simp] theorem State.setZN_cpu_p (v : Byte) : (s.setZN v).cpu.p = s.cpu.p.setZN v := rfl
@[simp] theorem State.setZN_cpu_nmiPending (v : Byte) : (s.setZN v).cpu.nmiPending = s.cpu.nmiPending := rfl
@[simp] theorem State.setZN_cpu_stall (v : Byte) : (s.setZN v).cpu.stall = s.cpu.stall := rfl
@[simp] theorem State.setZN_cpu_cyc (v : Byte) : (s.setZN v).cpu.cyc = s.cpu.cyc := rfl
@[simp] theorem State.setZN_ppu (v : Byte) : (s.setZN v).ppu = s.ppu := rfl
@[simp] theorem State.setZN_mem (v : Byte) : (s.setZN v).mem = s.mem := rfl
@[simp] theorem State.setZN_cart (v : Byte) : (s.setZN v).cart = s.cart := rfl
@[simp] theorem State.setZN_params (v : Byte) : (s.setZN v).params = s.params := rfl
@[simp] theorem State.setZN_halted (v : Byte) : (s.setZN v).halted = s.halted := rfl
@[simp] theorem State.setZN_master (v : Byte) : (s.setZN v).master = s.master := rfl
@[simp] theorem State.setZN_irqLine (v : Byte) : (s.setZN v).irqLine = s.irqLine := rfl
@[simp] theorem State.setZN_draws (v : Byte) : (s.setZN v).draws = s.draws := rfl

@[simp] theorem draw_fst (w : Nat) : (draw w s).1 = Config.draw w s.draws := rfl
@[simp] theorem draw_cpu_a (w : Nat) : (draw w s).2.cpu.a = s.cpu.a := rfl
@[simp] theorem draw_cpu_x (w : Nat) : (draw w s).2.cpu.x = s.cpu.x := rfl
@[simp] theorem draw_cpu_y (w : Nat) : (draw w s).2.cpu.y = s.cpu.y := rfl
@[simp] theorem draw_cpu_sp (w : Nat) : (draw w s).2.cpu.sp = s.cpu.sp := rfl
@[simp] theorem draw_cpu_pc (w : Nat) : (draw w s).2.cpu.pc = s.cpu.pc := rfl
@[simp] theorem draw_cpu_p (w : Nat) : (draw w s).2.cpu.p = s.cpu.p := rfl
@[simp] theorem draw_cpu_nmiPending (w : Nat) : (draw w s).2.cpu.nmiPending = s.cpu.nmiPending := rfl
@[simp] theorem draw_cpu_stall (w : Nat) : (draw w s).2.cpu.stall = s.cpu.stall := rfl
@[simp] theorem draw_cpu_cyc (w : Nat) : (draw w s).2.cpu.cyc = s.cpu.cyc := rfl
@[simp] theorem draw_ppu (w : Nat) : (draw w s).2.ppu = s.ppu := rfl
@[simp] theorem draw_mem (w : Nat) : (draw w s).2.mem = s.mem := rfl
@[simp] theorem draw_cart (w : Nat) : (draw w s).2.cart = s.cart := rfl
@[simp] theorem draw_params (w : Nat) : (draw w s).2.params = s.params := rfl
@[simp] theorem draw_halted (w : Nat) : (draw w s).2.halted = s.halted := rfl
@[simp] theorem draw_master (w : Nat) : (draw w s).2.master = s.master := rfl
@[simp] theorem draw_irqLine (w : Nat) : (draw w s).2.irqLine = s.irqLine := rfl
@[simp] theorem draw_draws (w : Nat) : (draw w s).2.draws = s.draws + 1 := rfl
@[simp] theorem draw_cpu (w : Nat) : (draw w s).2.cpu = s.cpu := rfl

@[simp] theorem Memory.putRam_ram (m : Memory) (i : Nat) (v : Byte) : (m.putRam i v).ram = Cells.put m.ram i v := rfl
@[simp] theorem Memory.putRam_vram (m : Memory) (i : Nat) (v : Byte) : (m.putRam i v).vram = m.vram := rfl
@[simp] theorem Memory.putRam_oam (m : Memory) (i : Nat) (v : Byte) : (m.putRam i v).oam = m.oam := rfl
@[simp] theorem Memory.putRam_pal (m : Memory) (i : Nat) (v : Byte) : (m.putRam i v).pal = m.pal := rfl
@[simp] theorem Memory.putRam_hole (m : Memory) (i : Nat) (v : Byte) : (m.putRam i v).hole = m.hole := rfl
@[simp] theorem Memory.putVram_ram (m : Memory) (i : Nat) (v : Byte) : (m.putVram i v).ram = m.ram := rfl
@[simp] theorem Memory.putVram_vram (m : Memory) (i : Nat) (v : Byte) : (m.putVram i v).vram = Cells.put m.vram i v := rfl
@[simp] theorem Memory.putVram_oam (m : Memory) (i : Nat) (v : Byte) : (m.putVram i v).oam = m.oam := rfl
@[simp] theorem Memory.putVram_pal (m : Memory) (i : Nat) (v : Byte) : (m.putVram i v).pal = m.pal := rfl
@[simp] theorem Memory.putVram_hole (m : Memory) (i : Nat) (v : Byte) : (m.putVram i v).hole = m.hole := rfl
@[simp] theorem Memory.putOam_ram (m : Memory) (i : Nat) (v : Byte) : (m.putOam i v).ram = m.ram := rfl
@[simp] theorem Memory.putOam_vram (m : Memory) (i : Nat) (v : Byte) : (m.putOam i v).vram = m.vram := rfl
@[simp] theorem Memory.putOam_oam (m : Memory) (i : Nat) (v : Byte) : (m.putOam i v).oam = Cells.put m.oam i v := rfl
@[simp] theorem Memory.putOam_pal (m : Memory) (i : Nat) (v : Byte) : (m.putOam i v).pal = m.pal := rfl
@[simp] theorem Memory.putOam_hole (m : Memory) (i : Nat) (v : Byte) : (m.putOam i v).hole = m.hole := rfl
@[simp] theorem Memory.putPal_ram (m : Memory) (i : Nat) (v : BitVec 6) : (m.putPal i v).ram = m.ram := rfl
@[simp] theorem Memory.putPal_vram (m : Memory) (i : Nat) (v : BitVec 6) : (m.putPal i v).vram = m.vram := rfl
@[simp] theorem Memory.putPal_oam (m : Memory) (i : Nat) (v : BitVec 6) : (m.putPal i v).oam = m.oam := rfl
@[simp] theorem Memory.putPal_pal (m : Memory) (i : Nat) (v : BitVec 6) : (m.putPal i v).pal = Cells.put m.pal i v := rfl
@[simp] theorem Memory.putPal_hole (m : Memory) (i : Nat) (v : BitVec 6) : (m.putPal i v).hole = m.hole := rfl
@[simp] theorem Memory.putHole_ram (m : Memory) (i : Nat) (v : Byte) : (m.putHole i v).ram = m.ram := rfl
@[simp] theorem Memory.putHole_vram (m : Memory) (i : Nat) (v : Byte) : (m.putHole i v).vram = m.vram := rfl
@[simp] theorem Memory.putHole_oam (m : Memory) (i : Nat) (v : Byte) : (m.putHole i v).oam = m.oam := rfl
@[simp] theorem Memory.putHole_pal (m : Memory) (i : Nat) (v : Byte) : (m.putHole i v).pal = m.pal := rfl
@[simp] theorem Memory.putHole_hole (m : Memory) (i : Nat) (v : Byte) : (m.putHole i v).hole = Cells.put m.hole i v := rfl

end Sys2Proof.Machine
end

