-- ==== Sys2Proof/Laws/Ops.lean ====
section
/-! SUPPORT. One lemma per shared operation of Machine/Ops.lean that says what the operation can do: the plumbing of results,
the arrays and their canonical form, the frame of every bus access, the stack. -/

namespace Sys2Proof.Machine

/-! ### Results -/

section
variable {α β : Type}

@[simp] theorem andThen_next (v : α) (f : α → Result β) : andThen (.next v) f = f v := rfl
@[simp] theorem andThen_fault (r : Fault) (f : α → Result β) : andThen (.fault r) f = .fault r := rfl
@[simp] theorem andThen_refused (r : Refusal) (f : α → Result β) : andThen (.refused r) f = .refused r := rfl

/-- A sequence answers next exactly when both halves do. -/
theorem andThen_eq_next {x : Result α} {f : α → Result β} {b : β} :
    andThen x f = .next b ↔ ∃ a, x = .next a ∧ f a = .next b := by
  cases x <;> simp

/-- A sequence is its first half where that half stops. -/
theorem andThen_eq_fault {x : Result α} {f : α → Result β} {r : Fault} :
    andThen x f = .fault r ↔ x = .fault r ∨ ∃ a, x = .next a ∧ f a = .fault r := by
  cases x <;> simp

theorem andThen_assoc {γ : Type} (x : Result α) (f : α → Result β) (g : β → Result γ) :
    andThen (andThen x f) g = andThen x fun a => andThen (f a) g := by
  cases x <;> rfl

end

/-! ### The arrays -/

theorem Memory.ramByte_putRam (m : Memory) (i j : Nat) (v : Byte) :
    (m.putRam i v).ramByte j = if j = i then v else m.ramByte j := by
  simp only [Memory.ramByte, Memory.putRam_ram, Cells.get_put]; split <;> simp

theorem Memory.vramByte_putVram (m : Memory) (i j : Nat) (v : Byte) :
    (m.putVram i v).vramByte j = if j = i then v else m.vramByte j := by
  simp only [Memory.vramByte, Memory.putVram_vram, Cells.get_put]; split <;> simp

theorem Memory.oamByte_putOam (m : Memory) (i j : Nat) (v : Byte) :
    (m.putOam i v).oamByte j = if j = i then v else m.oamByte j := by
  simp only [Memory.oamByte, Memory.putOam_oam, Cells.get_put]; split <;> simp

theorem Memory.palCell_putPal (m : Memory) (i j : Nat) (v : BitVec 6) :
    (m.putPal i v).palCell j = if j = i then v else m.palCell j := by
  simp only [Memory.palCell, Memory.putPal_pal, Cells.get_put]; split <;> simp

theorem Memory.holeByte_putHole (m : Memory) (i j : Nat) (v : Byte) :
    (m.putHole i v).holeByte j = if j = i then v else m.holeByte j := by
  simp only [Memory.holeByte, Memory.putHole_hole, Cells.get_put]; split <;> simp

theorem Memory.wf_putRam {m : Memory} {i : Nat} {v : Byte} (h : m.wf = true) (hi : i < 0x800) :
    (m.putRam i v).wf = true := by
  simp only [Memory.wf, Bool.and_eq_true, Memory.putRam_ram, Memory.putRam_vram, Memory.putRam_oam,
    Memory.putRam_pal, Memory.putRam_hole] at h ⊢
  exact ⟨⟨⟨Cells.wf_put h.1.1.1 hi, h.1.1.2⟩, h.1.2⟩, h.2⟩

theorem Memory.wf_putVram {m : Memory} {i : Nat} {v : Byte} (h : m.wf = true) (hi : i < 0x800) :
    (m.putVram i v).wf = true := by
  simp only [Memory.wf, Bool.and_eq_true, Memory.putVram_ram, Memory.putVram_vram, Memory.putVram_oam,
    Memory.putVram_pal, Memory.putVram_hole] at h ⊢
  exact ⟨⟨⟨h.1.1.1, Cells.wf_put h.1.1.2 hi⟩, h.1.2⟩, h.2⟩

theorem Memory.wf_putOam {m : Memory} {i : Nat} {v : Byte} (h : m.wf = true) (hi : i < 0x100) :
    (m.putOam i v).wf = true := by
  simp only [Memory.wf, Bool.and_eq_true, Memory.putOam_ram, Memory.putOam_vram, Memory.putOam_oam,
    Memory.putOam_pal, Memory.putOam_hole] at h ⊢
  exact ⟨⟨h.1.1, Cells.wf_put h.1.2.1 hi, h.1.2.2⟩, h.2⟩

theorem Memory.wf_putPal {m : Memory} {i : Nat} {v : BitVec 6} (h : m.wf = true) (hi : i < 0x20) :
    (m.putPal i v).wf = true := by
  simp only [Memory.wf, Bool.and_eq_true, Memory.putPal_ram, Memory.putPal_vram, Memory.putPal_oam,
    Memory.putPal_pal, Memory.putPal_hole] at h ⊢
  exact ⟨⟨h.1.1, h.1.2.1, Cells.wf_put h.1.2.2 hi⟩, h.2⟩

theorem Memory.wf_putHole {m : Memory} {i : Nat} {v : Byte} (h : m.wf = true) (hi : i < 0x4000) :
    (m.putHole i v).wf = true := by
  simp only [Memory.wf, Bool.and_eq_true, Memory.putHole_ram, Memory.putHole_vram, Memory.putHole_oam,
    Memory.putHole_pal, Memory.putHole_hole] at h ⊢
  exact ⟨h.1, Cells.wf_put h.2 hi⟩

theorem ramIndex_lt (a : Word) : ramIndex a < 0x800 := Nat.mod_lt _ (by decide)

theorem holeIndex_lt (a : Word) : holeIndex a < 0x4000 := Nat.mod_lt _ (by decide)

theorem ntIndex_lt (m : Mirroring) (a : PpuAddr) : ntIndex m a < 0x800 := by
  cases m <;> simp only [ntIndex] <;> exact BitVec.isLt _

theorem palIndex_lt (a : PpuAddr) : palIndex a < 0x20 := by
  unfold palIndex
  split
  · have : (a &&& 0x0F).toNat ≤ 0x0F := by rw [BitVec.toNat_and]; exact Nat.and_le_right
    omega
  · have : (a &&& 0x1F).toNat ≤ 0x1F := by rw [BitVec.toNat_and]; exact Nat.and_le_right
    omega

/-- A PPU-bus write keeps the canonical form. -/
theorem wf_ppuWrite {c : Cartridge} {a : PpuAddr} {v : Byte} {m : Memory} (h : m.wf = true) :
    (ppuWrite c a v m).wf = true := by
  unfold ppuWrite
  split
  · exact h
  · split
    · exact Memory.wf_putVram h (ntIndex_lt _ _)
    · exact Memory.wf_putPal h (palIndex_lt _)

/-! ### What a bus access can do -/

/-- What every access to the CPU bus leaves: the CPU up to a newly latched NMI request, the configuration, the orchestrator's
state, the dot counters and the sprite buffers of the PPU, the canonical form of the arrays, the NMI line's rule. -/
structure BusFrame (s t : State) : Prop where
  cpu : t.cpu = { s.cpu with nmiPending := t.cpu.nmiPending }
  pending : s.cpu.nmiPending = true → t.cpu.nmiPending = true
  cart : t.cart = s.cart
  params : t.params = s.params
  halted : t.halted = s.halted
  master : t.master = s.master
  irqLine : t.irqLine = s.irqLine
  scanline : t.ppu.scanline = s.ppu.scanline
  dot : t.ppu.dot = s.ppu.dot
  odd : t.ppu.odd = s.ppu.odd
  secCount : t.ppu.secCount = s.ppu.secCount
  lineCount : t.ppu.lineCount = s.ppu.lineCount
  s0hit : t.ppu.s0hit = s.ppu.s0hit
  overflow : t.ppu.overflow = s.ppu.overflow
  wf : s.mem.wf = true → t.mem.wf = true
  nmiLine : Safety.NmiLineFollowsVblank s → Safety.NmiLineFollowsVblank t

theorem BusFrame.refl (s : State) : BusFrame s s := by
  constructor <;> first | rfl | exact id

theorem BusFrame.trans {s t u : State} (h : BusFrame s t) (k : BusFrame t u) : BusFrame s u where
  cpu := by rw [k.cpu, h.cpu]
  pending := k.pending ∘ h.pending
  cart := k.cart.trans h.cart
  params := k.params.trans h.params
  halted := k.halted.trans h.halted
  master := k.master.trans h.master
  irqLine := k.irqLine.trans h.irqLine
  scanline := k.scanline.trans h.scanline
  dot := k.dot.trans h.dot
  odd := k.odd.trans h.odd
  secCount := k.secCount.trans h.secCount
  lineCount := k.lineCount.trans h.lineCount
  s0hit := k.s0hit.trans h.s0hit
  overflow := k.overflow.trans h.overflow
  wf := k.wf ∘ h.wf
  nmiLine := k.nmiLine ∘ h.nmiLine

theorem updateNmi_frame (s : State) : BusFrame s (updateNmi s) := by
  constructor <;> first | rfl | exact id | simp +contextual [updateNmi, Safety.NmiLineFollowsVblank]

theorem draw_frame (w : Nat) (s : State) : BusFrame s (draw w s).2 := by
  constructor <;> first | rfl | exact id

/-- A status read never latches an NMI request: clearing `vblank` can only lower the line. -/
theorem readStatus_frame (s : State) : BusFrame s (readStatus s).2 := by
  constructor <;> simp [readStatus, updateNmi, Safety.NmiLineFollowsVblank]

/-- A port read stops only at the data port while the PPU is rendering (R317); else it has the frame of a bus access. -/
theorem portRead_frame {p : BitVec 3} {s : State} {r : Byte × State} (h : portRead p s = .next r) :
    BusFrame s r.2 := by
  unfold portRead at h
  split at h
  · cases h; exact readStatus_frame s
  · split at h
    · cases h; unfold readOamData; split
      · exact draw_frame _ _
      · exact BusFrame.refl s
    · split at h
      · unfold readData at h
        split at h
        · cases h
        · dsimp only at h
          split at h <;> cases h <;> (constructor <;> simp [Safety.NmiLineFollowsVblank])
      · cases h; exact draw_frame _ _

/-- With nothing behind the hole an access to it is the fault of R445. -/
theorem holeRead_fault {s : State} (h : s.params.holePolicy = .fault) (a : Word) :
    holeRead a s = .fault (.addressOutOfRange a .read s.cpu.pc) := by rw [holeRead, h]

theorem holeWrite_fault {s : State} (h : s.params.holePolicy = .fault) (a : Word) (v : Byte) :
    holeWrite a v s = .fault (.addressOutOfRange a .write s.cpu.pc) := by rw [holeWrite, h]

/-- With an array behind the hole an access to it goes to that array (R78). -/
theorem holeRead_ram {s : State} (h : s.params.holePolicy = .ram) (a : Word) :
    holeRead a s = .next (s.mem.holeByte (holeIndex a), s) := by rw [holeRead, h]

theorem holeWrite_ram {s : State} (h : s.params.holePolicy = .ram) (a : Word) (v : Byte) :
    holeWrite a v s = .next (s.setMem (s.mem.putHole (holeIndex a) v)) := by rw [holeWrite, h]

/-- A read of the hole that goes on changes nothing. -/
theorem holeRead_eq_next {a : Word} {s : State} {r : Byte × State} (h : holeRead a s = .next r) : r.2 = s := by
  unfold holeRead at h
  split at h <;> cases h
  rfl

theorem memRead_frame {a : Word} {s : State} {r : Byte × State} (h : memRead a s = .next r) : BusFrame s r.2 := by
  unfold memRead at h
  split at h
  · cases h; exact BusFrame.refl s
  · split at h
    · exact portRead_frame h
    · split at h
      · cases h; exact draw_frame _ _
      · split at h
        · rw [holeRead_eq_next h]; exact BusFrame.refl s
        · cases h; exact BusFrame.refl s

/-- A read of the bus writes no array. -/
theorem memRead_mem {a : Word} {s : State} {r : Byte × State} (h : memRead a s = .next r) : r.2.mem = s.mem := by
  unfold memRead portRead readStatus readOamData readData holeRead at h
  grind [updateNmi, draw, State.setPpu]

/-- Setting the arrays to a canonical form is a bus access's frame. -/
theorem setMem_frame {s : State} {m : Memory} (hm : s.mem.wf = true → m.wf = true) : BusFrame s (s.setMem m) := by
  constructor <;> first | rfl | exact id | exact hm

theorem ramWrite_frame (a : Word) (v : Byte) (s : State) : BusFrame s (ramWrite a v s) :=
  setMem_frame fun h => Memory.wf_putRam h (ramIndex_lt a)

/-- A port write stops only at ports 4 and 7 while the PPU is rendering (R310, R313); else it has the frame of a bus
access. -/
theorem portWrite_frame {p : BitVec 3} {d : Byte} {s t : State} (h : portWrite p d s = .next t) : BusFrame s t := by
  unfold portWrite at h
  split at h
  · cases h
    constructor <;> simp +contextual [writeControl, updateNmi, Safety.NmiLineFollowsVblank]
  split at h
  · cases h; constructor <;> simp [writeMask, Safety.NmiLineFollowsVblank]
  split at h
  · cases h; exact BusFrame.refl _
  split at h
  · cases h; constructor <;> simp [writeOamAddr, Safety.NmiLineFollowsVblank]
  split at h
  · unfold writeOamData at h
    split at h
    · cases h
    · cases h
      constructor <;> first
        | rfl
        | exact id
        | exact fun h => Memory.wf_putOam h (BitVec.isLt _)
  split at h
  · cases h; unfold writeScroll; split <;> (constructor <;> simp [Safety.NmiLineFollowsVblank])
  split at h
  · cases h; unfold writeAddr; split <;> (constructor <;> simp [Safety.NmiLineFollowsVblank])
  · unfold writeData at h
    split at h
    · cases h
    · cases h
      constructor <;> first
        | rfl
        | exact id
        | exact fun h => wf_ppuWrite h

theorem oamDmaCopy_frame {p : Byte} {n : Nat} {s t : State} (h : oamDmaCopy p n s = .next t) : BusFrame s t := by
  induction n generalizing s with
  | zero => cases h; exact BusFrame.refl _
  | succ n ih =>
    obtain ⟨r, hr, ht⟩ := andThen_eq_next.mp h
    exact ((memRead_frame hr).trans (setMem_frame fun hw => Memory.wf_putOam hw (BitVec.isLt _))).trans (ih ht)

theorem memWrite_frame {a : Word} {v : Byte} {s t : State} (h : memWrite a v s = .next t) : BusFrame s t := by
  unfold memWrite at h
  split at h
  · cases h; exact ramWrite_frame a v _
  split at h
  · exact portWrite_frame h
  split at h
  · unfold oamDma at h
    split at h
    · cases h
    · exact oamDmaCopy_frame h
  split at h
  · unfold holeWrite at h
    split at h
    · cases h
    · cases h; exact setMem_frame fun hw => Memory.wf_putHole hw (holeIndex_lt a)
  · cases h; exact BusFrame.refl s

/-! ### The stack -/

@[simp] theorem push_cpu (v : Byte) (s : State) : (push v s).cpu = { s.cpu with sp := s.cpu.sp - 1 } := rfl
@[simp] theorem push_ppu (v : Byte) (s : State) : (push v s).ppu = s.ppu := rfl
@[simp] theorem push_cart (v : Byte) (s : State) : (push v s).cart = s.cart := rfl
@[simp] theorem push_params (v : Byte) (s : State) : (push v s).params = s.params := rfl
@[simp] theorem push_mem (v : Byte) (s : State) :
    (push v s).mem = s.mem.putRam (ramIndex (stackAddr s.cpu.sp)) v := rfl
@[simp] theorem pull_fst (s : State) : (pull s).1 = ramRead (stackAddr (s.cpu.sp + 1)) s := rfl
@[simp] theorem pull_snd (s : State) : (pull s).2 = s.setSp (s.cpu.sp + 1) := rfl
@[simp] theorem pullWord_fst (s : State) :
    (pullWord s).1 = joinBytes (ramRead (stackAddr (s.cpu.sp + 2)) s) (ramRead (stackAddr (s.cpu.sp + 1)) s) := by
  have h : s.cpu.sp + 1#8 + 1#8 = s.cpu.sp + 2#8 := by rw [BitVec.add_assoc]; rfl
  simp [pullWord, ramRead, h]
@[simp] theorem pullWord_snd (s : State) : (pullWord s).2 = s.setSp (s.cpu.sp + 2) := by
  have h : s.cpu.sp + 1#8 + 1#8 = s.cpu.sp + 2#8 := by rw [BitVec.add_assoc]; rfl
  simp [pullWord, State.setSp, h]

/-- The stack page lies in the RAM window: index 0x100 plus SP. -/
theorem ramIndex_stackAddr (sp : Byte) : ramIndex (stackAddr sp) = 0x100 + sp.toNat := by
  revert sp; decide

theorem stackAddr_le (sp : Byte) : stackAddr sp ≤ 0x1FFF := by revert sp; decide

/-- A push is a bus write to `0x0100 | SP` (R13). -/
theorem memWrite_stackAddr (v : Byte) (s : State) :
    memWrite (stackAddr s.cpu.sp) v s = .next (ramWrite (stackAddr s.cpu.sp) v s) := by
  rw [memWrite, if_pos (stackAddr_le _)]

/-- A pull reads the bus at `0x0100 | SP` (R13). -/
theorem memRead_stackAddr (sp : Byte) (s : State) :
    memRead (stackAddr sp) s = .next (ramRead (stackAddr sp) s, s) := by
  rw [memRead, if_pos (stackAddr_le _)]

end Sys2Proof.Machine
end

