-- ==== Sys2Proof/Laws/Ppu.lean ====
section
/-! SUPPORT. What each part of a dot can do (Machine/Ppu.lean), and that a dot keeps the parts of the invariant that concern
the PPU. -/

namespace Sys2Proof.Machine

/-! ### The vblank edges -/

theorem vblankStart_eq (s : State) :
    vblankStart s =
      { s with
        cpu := { s.cpu with nmiPending := (vblankStart s).cpu.nmiPending }
        ppu := { s.ppu with vblank := (vblankStart s).ppu.vblank, nmiLine := (vblankStart s).ppu.nmiLine } } := by
  unfold vblankStart updateNmi; split <;> rfl

theorem vblankEnd_eq (s : State) :
    vblankEnd s =
      { s with
        cpu := { s.cpu with nmiPending := (vblankEnd s).cpu.nmiPending }
        ppu := { s.ppu with
          vblank := (vblankEnd s).ppu.vblank, s0hit := (vblankEnd s).ppu.s0hit
          overflow := (vblankEnd s).ppu.overflow, nmiLine := (vblankEnd s).ppu.nmiLine } } := by
  unfold vblankEnd updateNmi; split <;> rfl

/-- The vblank edges leave everything but the three status flags, the NMI line and the NMI latch. -/
theorem vblankEdges_eq (s : State) :
    vblankEdges s =
      { s with
        cpu := { s.cpu with nmiPending := (vblankEdges s).cpu.nmiPending }
        ppu := { s.ppu with
          vblank := (vblankEdges s).ppu.vblank, s0hit := (vblankEdges s).ppu.s0hit
          overflow := (vblankEdges s).ppu.overflow, nmiLine := (vblankEdges s).ppu.nmiLine } } := by
  unfold vblankEdges
  rw [vblankEnd_eq, vblankStart_eq]

theorem vblankEdges_pending {s : State} (h : s.cpu.nmiPending = true) : (vblankEdges s).cpu.nmiPending = true := by
  have start : (vblankStart s).cpu.nmiPending = true := by unfold vblankStart updateNmi; split <;> simp [h]
  unfold vblankEdges vblankEnd updateNmi; split <;> simp [start]

theorem vblankEdges_nmiLine {s : State} (h : Safety.NmiLineFollowsVblank s) :
    Safety.NmiLineFollowsVblank (vblankEdges s) := by
  have start : Safety.NmiLineFollowsVblank (vblankStart s) := by
    unfold vblankStart updateNmi
    split
    · simp [Safety.NmiLineFollowsVblank]
    · exact h
  unfold vblankEdges vblankEnd updateNmi
  split
  · simp [Safety.NmiLineFollowsVblank]
  · exact start

/-! ### The rendering work -/

/-- What the rendering work of a dot leaves of the PPU: the registers a program writes, the counters, the NMI output. -/
structure RenderFrame (p q : Ppu) : Prop where
  ctrl : q.ctrl = p.ctrl
  mask : q.mask = p.mask
  vblank : q.vblank = p.vblank
  oamaddr : q.oamaddr = p.oamaddr
  t : q.t = p.t
  x : q.x = p.x
  w : q.w = p.w
  readbuf : q.readbuf = p.readbuf
  scanline : q.scanline = p.scanline
  dot : q.dot = p.dot
  odd : q.odd = p.odd
  nmiLine : q.nmiLine = p.nmiLine
  sprites : p.secCount ≤ 8 ∧ p.lineCount ≤ 8 → q.secCount ≤ 8 ∧ q.lineCount ≤ 8

theorem RenderFrame.refl (p : Ppu) : RenderFrame p p := by constructor <;> first | rfl | exact id

theorem RenderFrame.trans {p q r : Ppu} (h : RenderFrame p q) (k : RenderFrame q r) : RenderFrame p r where
  ctrl := k.ctrl.trans h.ctrl
  mask := k.mask.trans h.mask
  vblank := k.vblank.trans h.vblank
  oamaddr := k.oamaddr.trans h.oamaddr
  t := k.t.trans h.t
  x := k.x.trans h.x
  w := k.w.trans h.w
  readbuf := k.readbuf.trans h.readbuf
  scanline := k.scanline.trans h.scanline
  dot := k.dot.trans h.dot
  odd := k.odd.trans h.odd
  nmiLine := k.nmiLine.trans h.nmiLine
  sprites := k.sprites ∘ h.sprites

theorem bgShift_frame (d : Nat) (p : Ppu) : RenderFrame p (bgShift d p) := by
  unfold bgShift
  split
  · split <;> (constructor <;> first | rfl | exact id)
  · exact RenderFrame.refl p

theorem bgFetch_frame (c : Cartridge) (m : Memory) (d : Nat) (p : Ppu) : RenderFrame p (bgFetch c m d p) := by
  unfold bgFetch
  split
  · split <;> (constructor <;> first | rfl | exact id)
  · exact RenderFrame.refl p

theorem bgScroll_frame (k : Params) (sl d : Nat) (p : Ppu) : RenderFrame p (bgScroll k sl d p) := by
  unfold bgScroll
  split
  · constructor <;> first | rfl | exact id
  · split
    · constructor <;> first | rfl | exact id
    · split
      · constructor <;> first | rfl | exact id
      · exact RenderFrame.refl p

theorem bgDot_frame (k : Params) (c : Cartridge) (m : Memory) (sl d : Nat) (p : Ppu) :
    RenderFrame p (bgDot k c m sl d p) :=
  ((bgShift_frame d p).trans (bgFetch_frame c m d _)).trans (bgScroll_frame k sl d _)

theorem scanEntry_frame (m : Memory) (n i : Nat) (p : Ppu) : RenderFrame p (scanEntry m n i p) := by
  unfold scanEntry
  dsimp only
  split
  · split
    · constructor <;> first | rfl | (intro h; exact ⟨by dsimp only; omega, h.2⟩)
    · constructor <;> first | rfl | exact id
  · exact RenderFrame.refl p

theorem scanEntries_frame (m : Memory) (n k : Nat) (p : Ppu) : RenderFrame p (scanEntries m n k p) := by
  induction k generalizing p with
  | zero => exact RenderFrame.refl p
  | succ k ih => exact (scanEntry_frame m n _ p).trans (ih _)

theorem spriteDot_frame (k : Params) (c : Cartridge) (m : Memory) (sl d : Nat) (p : Ppu) :
    RenderFrame p (spriteDot k c m sl d p) := by
  unfold spriteDot
  split
  · split
    · constructor <;> first | rfl | exact fun h => ⟨h.1, Nat.zero_le 8⟩
    · exact RenderFrame.refl p
  · split
    · constructor <;> first | rfl | exact fun h => ⟨Nat.zero_le 8, h.2⟩
    · split
      · exact scanEntries_frame m sl 64 p
      · split
        · constructor <;> first | rfl | exact fun h => ⟨h.1, h.1⟩
        · exact RenderFrame.refl p

theorem renderDot_frame (k : Params) (c : Cartridge) (m : Memory) (p : Ppu) : RenderFrame p (renderDot k c m p) := by
  unfold renderDot
  split
  · exact (bgDot_frame k c m _ _ p).trans (spriteDot_frame k c m _ _ _)
  · exact RenderFrame.refl p

/-- With rendering off, or on an idle line, the rendering work moves nothing (R345). -/
theorem renderDot_idle {k : Params} (c : Cartridge) (m : Memory) {p : Ppu} (h : p.isRendering k = false) :
    renderDot k c m p = p := by
  simp [renderDot, h]

theorem outputDot_frame (m : Memory) (p : Ppu) : RenderFrame p (outputDot m p) := by
  unfold outputDot emitPixel
  split <;> (constructor <;> first | rfl | exact id)

/-! ### The counters -/

/-- The counter advance changes the two counters and the parity only. -/
theorem advanceDot_eq (k : Params) (p : Ppu) :
    advanceDot k p =
      { p with
        dot := (advanceDot k p).dot, scanline := (advanceDot k p).scanline, odd := (advanceDot k p).odd } := by
  unfold advanceDot
  split
  · rfl
  · split
    · split <;> rfl
    · rfl

theorem advanceDot_bounded {k : Params} {p : Ppu} (h : p.scanline < k.linesPerFrame ∧ p.dot < k.dotsPerLine) :
    (advanceDot k p).scanline < k.linesPerFrame ∧ (advanceDot k p).dot < k.dotsPerLine := by
  unfold advanceDot
  split
  · exact ⟨by dsimp only; omega, by dsimp only; omega⟩
  · split
    · split
      · exact ⟨by dsimp only; omega, by dsimp only; omega⟩
      · exact ⟨by dsimp only; omega, by dsimp only; omega⟩
    · exact ⟨h.1, by dsimp only; omega⟩

/-! ### The dot -/

/-- A dot writes the PPU, and of the rest the NMI latch only (R340). -/
theorem ppuDot_eq (s : State) :
    ppuDot s = { s with cpu := { s.cpu with nmiPending := (ppuDot s).cpu.nmiPending }, ppu := (ppuDot s).ppu } := by
  simp only [ppuDot]
  rw [vblankEdges_eq s]
  rfl

@[simp] theorem ppuDot_mem (s : State) : (ppuDot s).mem = s.mem := by rw [ppuDot_eq]
@[simp] theorem ppuDot_cart (s : State) : (ppuDot s).cart = s.cart := by rw [ppuDot_eq]
@[simp] theorem ppuDot_params (s : State) : (ppuDot s).params = s.params := by rw [ppuDot_eq]
@[simp] theorem ppuDot_halted (s : State) : (ppuDot s).halted = s.halted := by rw [ppuDot_eq]
@[simp] theorem ppuDot_master (s : State) : (ppuDot s).master = s.master := by rw [ppuDot_eq]
@[simp] theorem ppuDot_irqLine (s : State) : (ppuDot s).irqLine = s.irqLine := by rw [ppuDot_eq]
@[simp] theorem ppuDot_draws (s : State) : (ppuDot s).draws = s.draws := by rw [ppuDot_eq]
@[simp] theorem ppuDot_stall (s : State) : (ppuDot s).cpu.stall = s.cpu.stall := by rw [ppuDot_eq]
@[simp] theorem ppuDot_cyc (s : State) : (ppuDot s).cpu.cyc = s.cpu.cyc := by rw [ppuDot_eq]
@[simp] theorem ppuDot_p (s : State) : (ppuDot s).cpu.p = s.cpu.p := by rw [ppuDot_eq]
@[simp] theorem ppuDot_pc (s : State) : (ppuDot s).cpu.pc = s.cpu.pc := by rw [ppuDot_eq]

/-- A pending NMI stays pending through a dot. -/
theorem ppuDot_pending {s : State} (h : s.cpu.nmiPending = true) : (ppuDot s).cpu.nmiPending = true :=
  vblankEdges_pending h

/-- The dot's own PPU, from what its vblank edge leaves. -/
theorem ppuDot_ppu (s : State) :
    (ppuDot s).ppu =
      advanceDot (vblankEdges s).params (outputDot (vblankEdges s).mem (renderDot (vblankEdges s).params
        (vblankEdges s).cart (vblankEdges s).mem (vblankEdges s).ppu)) := rfl

/-- A dot keeps the registers only a program writes. -/
theorem ppuDot_registers (s : State) :
    (ppuDot s).ppu.ctrl = s.ppu.ctrl ∧ (ppuDot s).ppu.mask = s.ppu.mask ∧
      (ppuDot s).ppu.oamaddr = s.ppu.oamaddr ∧ (ppuDot s).ppu.t = s.ppu.t ∧ (ppuDot s).ppu.x = s.ppu.x ∧
      (ppuDot s).ppu.w = s.ppu.w ∧ (ppuDot s).ppu.readbuf = s.ppu.readbuf := by
  have f := (renderDot_frame (vblankEdges s).params (vblankEdges s).cart (vblankEdges s).mem (vblankEdges s).ppu).trans
    (outputDot_frame (vblankEdges s).mem _)
  rw [ppuDot_ppu, advanceDot_eq]
  dsimp only
  rw [f.ctrl, f.mask, f.oamaddr, f.t, f.x, f.w, f.readbuf, vblankEdges_eq s]
  exact ⟨rfl, rfl, rfl, rfl, rfl, rfl, rfl⟩

theorem ppuDot_counters {s : State} (h : Safety.CountersBounded s) : Safety.CountersBounded (ppuDot s) := by
  have f := (renderDot_frame (vblankEdges s).params (vblankEdges s).cart (vblankEdges s).mem (vblankEdges s).ppu).trans
    (outputDot_frame (vblankEdges s).mem _)
  have g := advanceDot_bounded (k := (vblankEdges s).params) (p := outputDot _ (renderDot _ _ _ _))
    (by rw [f.scanline, f.dot, vblankEdges_eq s]; exact h)
  unfold Safety.CountersBounded
  rw [ppuDot_params, ppuDot_ppu]
  rw [vblankEdges_eq s] at g ⊢
  exact g

theorem ppuDot_sprites {s : State} (h : Safety.SpritesBounded s) : Safety.SpritesBounded (ppuDot s) := by
  have f := (renderDot_frame (vblankEdges s).params (vblankEdges s).cart (vblankEdges s).mem (vblankEdges s).ppu).trans
    (outputDot_frame (vblankEdges s).mem _)
  have g := f.sprites (by rw [vblankEdges_eq s]; exact h)
  unfold Safety.SpritesBounded
  rw [ppuDot_ppu, advanceDot_eq]
  exact g

theorem ppuDot_nmiLine {s : State} (h : Safety.NmiLineFollowsVblank s) :
    Safety.NmiLineFollowsVblank (ppuDot s) := by
  have f := (renderDot_frame (vblankEdges s).params (vblankEdges s).cart (vblankEdges s).mem (vblankEdges s).ppu).trans
    (outputDot_frame (vblankEdges s).mem _)
  have g := vblankEdges_nmiLine h
  unfold Safety.NmiLineFollowsVblank at g ⊢
  rw [ppuDot_ppu, advanceDot_eq]
  dsimp only
  rw [f.nmiLine, f.vblank, f.ctrl]
  exact g

end Sys2Proof.Machine
end

