-- ==== Sys2Proof/Laws/Shapes.lean ====
section
/-! SUPPORT. One lemma per addressing mode and per instruction shape of Machine/Operands.lean: what it answers, and what it
leaves as it was. -/

namespace Sys2Proof.Machine

/-! ### Addressing modes -/

theorem zext16_le (b : Byte) : zext16 b ≤ 0x1FFF := by revert b; decide

/-- A read of page zero is a read of `ram`. -/
theorem memRead_zext16 (b : Byte) (s : State) : memRead (zext16 b) s = .next (ramRead (zext16 b) s, s) := by
  rw [memRead, if_pos (zext16_le b)]

/-- A pointer in page zero is read without an effect. -/
theorem readPointer_zext16 (a b : Byte) (s : State) :
    readPointer (zext16 a) (zext16 b) s =
      .next (joinBytes (ramRead (zext16 b) s) (ramRead (zext16 a) s), s) := by
  simp [readPointer, memRead_zext16]

@[simp] theorem effective_zp (b : Byte) (s : State) : effective (.zp b) s = .next (direct (zext16 b), s) := rfl
@[simp] theorem effective_zpx (b : Byte) (s : State) :
    effective (.zpx b) s = .next (direct (zext16 (b + s.cpu.x)), s) := rfl
@[simp] theorem effective_zpy (b : Byte) (s : State) :
    effective (.zpy b) s = .next (direct (zext16 (b + s.cpu.y)), s) := rfl
@[simp] theorem effective_abs (w : Word) (s : State) : effective (.abs w) s = .next (direct w, s) := rfl
@[simp] theorem effective_abx (w : Word) (s : State) : effective (.abx w) s = .next (indexed w s.cpu.x, s) := rfl
@[simp] theorem effective_aby (w : Word) (s : State) : effective (.aby w) s = .next (indexed w s.cpu.y, s) := rfl
@[simp] theorem effective_izx (b : Byte) (s : State) :
    effective (.izx b) s =
      .next (direct (joinBytes (ramRead (zext16 (b + s.cpu.x + 1)) s) (ramRead (zext16 (b + s.cpu.x)) s)), s) := by
  simp only [effective, readPointer_zext16, andThen_next]
@[simp] theorem effective_izy (b : Byte) (s : State) :
    effective (.izy b) s =
      .next (indexed (joinBytes (ramRead (zext16 (b + 1)) s) (ramRead (zext16 b) s)) s.cpu.y, s) := by
  simp only [effective, readPointer_zext16, andThen_next]

theorem readPointer_frame {lo hi : Word} {s : State} {r : Word × State} (h : readPointer lo hi s = .next r) :
    BusFrame s r.2 ∧ r.2.mem = s.mem := by
  obtain ⟨l, hl, h⟩ := andThen_eq_next.mp h
  obtain ⟨u, hu, h⟩ := andThen_eq_next.mp h
  cases h
  exact ⟨(memRead_frame hl).trans (memRead_frame hu), (memRead_mem hu).trans (memRead_mem hl)⟩

/-- Every mode but JMP's indirect one has its effective address without an effect on the state. -/
theorem effective_pure {o : Operand} {s t : State} {e : Effective} (hm : o.mode ≠ .ind)
    (h : effective o s = .next (e, t)) : t = s := by
  cases o <;> first
    | exact absurd rfl hm
    | (simp only [effective_zp, effective_zpx, effective_zpy, effective_abs, effective_abx, effective_aby,
        effective_izx, effective_izy, Host.Outcome.next.injEq, Prod.mk.injEq] at h
       exact h.2.symm)
    | cases h

theorem effective_frame {o : Operand} {s : State} {r : Effective × State} (h : effective o s = .next r) :
    BusFrame s r.2 ∧ r.2.mem = s.mem := by
  by_cases hm : o.mode = .ind
  · cases o <;> cases hm
    obtain ⟨p, hp, h⟩ := andThen_eq_next.mp h
    cases h
    exact readPointer_frame hp
  · obtain ⟨e, t⟩ := r
    rw [effective_pure hm h]
    exact ⟨BusFrame.refl s, rfl⟩

theorem readOperand_frame {o : Operand} {s : State} {m : Fetched} (h : readOperand o s = .next m) :
    BusFrame s m.after ∧ m.after.mem = s.mem := by
  unfold readOperand at h
  split at h
  · cases h; exact ⟨BusFrame.refl s, rfl⟩
  · obtain ⟨e, he, h⟩ := andThen_eq_next.mp h
    obtain ⟨r, hr, h⟩ := andThen_eq_next.mp h
    cases h
    exact ⟨(effective_frame he).1.trans (memRead_frame hr), (memRead_mem hr).trans (effective_frame he).2⟩

/-! ### Shapes -/

theorem withEntry_eq_next {mn : Mnemonic} {mode : Mode} {s t : State} {run : Nat → Result State} :
    withEntry mn mode s run = .next t ↔ ∃ e, tableEntry mn mode = some e ∧ run (s.params.cycles e.opcode) = .next t := by
  unfold withEntry; cases tableEntry mn mode <;> simp

/-- With a table entry the shape runs with its base cycle cost. -/
theorem withEntry_some {mn : Mnemonic} {mode : Mode} {e : Entry} (h : tableEntry mn mode = some e) (s : State)
    (run : Nat → Result State) : withEntry mn mode s run = run (s.params.cycles e.opcode) := by
  rw [withEntry, h]

theorem implied_eq_next {mn : Mnemonic} {f : State → State} {s t : State} :
    implied mn f s = .next t ↔ ∃ e, tableEntry mn .imp = some e ∧
      t = ((f s).setPc ((f s).cpu.pc + 1)).setStall (s.params.cycles e.opcode - 1) := by
  simp only [implied, withEntry_eq_next, advance, finish, Host.Outcome.next.injEq]
  constructor
  · rintro ⟨e, he, rfl⟩; exact ⟨e, he, rfl⟩
  · rintro ⟨e, he, rfl⟩; exact ⟨e, he, rfl⟩

theorem reading_eq_next {mn : Mnemonic} {o : Operand} {f : Byte → State → State} {s t : State} :
    reading mn o f s = .next t ↔ ∃ e m, tableEntry mn o.mode = some e ∧ readOperand o s = .next m ∧
      t = ((f m.value m.after).setPc ((f m.value m.after).cpu.pc + BitVec.ofNat 16 o.mode.length)).setStall
        (s.params.cycles e.opcode + m.px.toNat - 1) := by
  simp only [reading, withEntry_eq_next, andThen_eq_next, advance, finish, Host.Outcome.next.injEq]
  constructor
  · rintro ⟨e, he, m, hm, rfl⟩; exact ⟨e, m, he, hm, rfl⟩
  · rintro ⟨e, m, he, hm, rfl⟩; exact ⟨e, he, m, hm, rfl⟩

theorem storing_eq_next {mn : Mnemonic} {o : Operand} {v : Byte} {s t : State} :
    storing mn o v s = .next t ↔ ∃ e a u, tableEntry mn o.mode = some e ∧ effective o s = .next a ∧
      memWrite a.1.ea v a.2 = .next u ∧
      t = (u.setPc (u.cpu.pc + BitVec.ofNat 16 o.mode.length)).setStall
        (s.params.cycles e.opcode + dmaExtra a.1.ea (s.params.cycles e.opcode) u - 1) := by
  simp only [storing, withEntry_eq_next, andThen_eq_next, advance, finish, Host.Outcome.next.injEq]
  constructor
  · rintro ⟨e, he, a, ha, u, hu, rfl⟩; exact ⟨e, a, u, he, ha, hu, rfl⟩
  · rintro ⟨e, a, u, he, ha, hu, rfl⟩; exact ⟨e, he, a, ha, u, hu, rfl⟩

theorem modifying_eq_next {mn : Mnemonic} {o : Operand} {r : Byte → Byte} {f : Byte → State → State} {s t : State} :
    modifying mn o r f s = .next t ↔ ∃ e a m u, tableEntry mn o.mode = some e ∧ effective o s = .next a ∧
      memRead a.1.ea a.2 = .next m ∧ memWrite a.1.ea (r m.1) m.2 = .next u ∧
      t = ((f m.1 u).setPc ((f m.1 u).cpu.pc + BitVec.ofNat 16 o.mode.length)).setStall
        (s.params.cycles e.opcode + dmaExtra a.1.ea (s.params.cycles e.opcode) u - 1) := by
  simp only [modifying, withEntry_eq_next, andThen_eq_next, advance, finish, Host.Outcome.next.injEq]
  constructor
  · rintro ⟨e, he, a, ha, m, hm, u, hu, rfl⟩; exact ⟨e, a, m, u, he, ha, hm, hu, rfl⟩
  · rintro ⟨e, a, m, u, he, ha, hm, hu, rfl⟩; exact ⟨e, he, a, ha, m, hm, u, hu, rfl⟩

/-- Where `DECIMAL_ENABLED` is false or D is clear, ADC and SBC run their binary arithmetic (R240). -/
theorem binary_eq {s : State} (h : s.params.decimalEnabled = false ∨ s.cpu.p.d = false) (run : Result State) :
    binary s run = run := by
  unfold binary; rcases h with h | h <;> simp [h]

/-- ADC or SBC goes on only as its binary arithmetic does. -/
theorem binary_eq_next {s t : State} {run : Result State} :
    binary s run = .next t ↔ (s.params.decimalEnabled = false ∨ s.cpu.p.d = false) ∧ run = .next t := by
  unfold binary; cases s.params.decimalEnabled <;> cases s.cpu.p.d <;> simp

/-- The accumulator form of a shift or rotate. -/
theorem shifting_acc (mn : Mnemonic) (sh : Byte → ShiftResult) (s : State) :
    shifting mn .acc sh s = withEntry mn .acc s fun n =>
      advance 1 n ((s.setA (sh s.cpu.a).r).setFlags (s.cpu.p.afterShift (sh s.cpu.a))) := rfl

/-- The memory forms of a shift or rotate. -/
theorem shifting_mem {mn : Mnemonic} {o : Operand} (ho : o ≠ .acc) (sh : Byte → ShiftResult) (s : State) :
    shifting mn o sh s =
      modifying mn o (fun m => (sh m).r) (fun m s => s.setFlags (s.cpu.p.afterShift (sh m))) s := by
  cases o <;> first | exact absurd rfl ho | rfl

/-- A branch with a table entry: where it goes and what it costs (R264). -/
theorem branching_some {mn : Mnemonic} {e : Entry} (h : tableEntry mn .rel = some e) (cond : Bool) (offset : Byte)
    (s : State) :
    branching mn cond offset s = .next (
      if cond then
        (s.setPc (branchTarget s.cpu.pc offset)).setStall
          (s.params.cycles e.opcode + 1 + (pageCross (s.cpu.pc + 2) (branchTarget s.cpu.pc offset)).toNat - 1)
      else (s.setPc (s.cpu.pc + 2)).setStall (s.params.cycles e.opcode - 1)) := by
  rw [branching, withEntry_some h]; cases cond <;> rfl

/-! ### Interrupts -/

/-- What an interrupt entry answers, written out (R440). -/
theorem enterInterrupt_eq (ret : Word) (status : Byte) (vector : Word) (n : Nat) (s : State) :
    enterInterrupt ret status vector n s = .next
      { s with
        cpu := { s.cpu with
          sp := s.cpu.sp - 3, p := { s.cpu.p with i := true }, pc := s.cart.vector vector, stall := n - 1 }
        mem := ((s.mem.putRam (ramIndex (stackAddr s.cpu.sp)) (hiByte ret)).putRam
          (ramIndex (stackAddr (s.cpu.sp - 1))) (loByte ret)).putRam
          (ramIndex (stackAddr (s.cpu.sp - 2))) status } := by
  have h2 : s.cpu.sp - 1#8 - 1#8 = s.cpu.sp - 2#8 := by bv_omega
  have h3 : s.cpu.sp - 2#8 - 1#8 = s.cpu.sp - 3#8 := by bv_omega
  simp [enterInterrupt, finish, vectorRead, push, pushWord, ramWrite, State.setSp, State.setMem, State.setPc,
    State.setStall, State.setFlags, h2, h3]

/-- What a return from an interrupt answers, written out (R289). -/
theorem returnFromInterrupt_eq (n : Nat) (s : State) :
    returnFromInterrupt n s = .next
      { s with
        cpu := { s.cpu with
          sp := s.cpu.sp + 3
          p := s.cpu.p.unpack (ramRead (stackAddr (s.cpu.sp + 1)) s)
          pc := joinBytes (ramRead (stackAddr (s.cpu.sp + 3)) s) (ramRead (stackAddr (s.cpu.sp + 2)) s)
          stall := n - 1 } } := by
  have h2 : s.cpu.sp + 1#8 + 1#8 = s.cpu.sp + 2#8 := by bv_omega
  have h3 : s.cpu.sp + 1#8 + 2#8 = s.cpu.sp + 3#8 := by bv_omega
  simp [returnFromInterrupt, finish, State.setSp, State.setPc, State.setStall, State.setFlags, ramRead, h2, h3]

end Sys2Proof.Machine
end

