-- ==== Sys2Proof/Laws/Clock.lean ====
section
/-! SUPPORT. What a CPU cycle and a master tick can do (Machine/Clock.lean, Machine/Step.lean), said once; and that placing a
byte keeps the canonical form. -/

namespace Sys2Proof.Machine

/-! ### Fetching -/

/-- A fetch is bus reads and nothing else. -/
theorem fetch_frame {s : State} {r : Instr × State} (h : fetch s = .next r) :
    BusFrame s r.2 ∧ r.2.mem = s.mem := by
  have hd : ∀ {b : List Byte} {t : State} {r : Instr × State},
      (match decode b with
        | .ok (i, _) => (.next (i, t) : Result (Instr × State))
        | .error _ => .fault (.configurationError b.head? t.cpu.pc)) = .next r → r.2 = t := by
    intro b t r h
    cases hb : decode b <;> simp only [hb] at h <;> cases h
    rfl
  unfold fetch at h
  dsimp only at h
  obtain ⟨op, hop, h⟩ := andThen_eq_next.mp h
  split at h
  · obtain ⟨b1, h1, h⟩ := andThen_eq_next.mp h
    rw [hd h]
    exact ⟨(memRead_frame hop).trans (memRead_frame h1), (memRead_mem h1).trans (memRead_mem hop)⟩
  · obtain ⟨b1, h1, h⟩ := andThen_eq_next.mp h
    obtain ⟨b2, h2, h⟩ := andThen_eq_next.mp h
    rw [hd h]
    exact ⟨((memRead_frame hop).trans (memRead_frame h1)).trans (memRead_frame h2),
      ((memRead_mem h2).trans (memRead_mem h1)).trans (memRead_mem hop)⟩
  · rw [hd h]
    exact ⟨memRead_frame hop, memRead_mem hop⟩

/-! ### The CPU step and the CPU cycle -/

/-- A CPU step that goes on is an NMI entry, an IRQ entry, or the instruction fetched at PC (R123, R439). -/
theorem cpuStep_cases {s t : State} (h : cpuStep s = .next t) :
    (s.cpu.nmiPending = true ∧ nmiEntry s = .next t) ∨
    (s.cpu.nmiPending = false ∧ s.irqLine = true ∧ s.cpu.p.i = false ∧ irqEntry s = .next t) ∨
    (s.cpu.nmiPending = false ∧ (s.irqLine = false ∨ s.cpu.p.i = true) ∧
      ∃ r, fetch s = .next r ∧ exec r.1 r.2 = .next t) := by
  unfold cpuStep at h
  split at h
  · exact .inl ⟨‹_›, h⟩
  · split at h
    · refine .inr (.inl ?_); simp_all
    · refine .inr (.inr ⟨by simpa using ‹¬s.cpu.nmiPending = true›, ?_, andThen_eq_next.mp h⟩)
      rename_i _ hi
      cases h1 : s.irqLine <;> cases h2 : s.cpu.p.i <;> simp_all

/-- A CPU cycle that goes on burns a stall cycle or performs a CPU step; either way it is counted (R402). -/
theorem cpuCycle_cases {s t : State} (h : cpuCycle s = .next t) :
    (0 < s.cpu.stall ∧ t = (s.setCyc (s.cpu.cyc + 1)).setStall (s.cpu.stall - 1)) ∨
    (s.cpu.stall = 0 ∧ cpuStep (s.setCyc (s.cpu.cyc + 1)) = .next t) := by
  unfold cpuCycle at h
  dsimp only at h
  split at h
  · exact .inl ⟨‹_›, by cases h; rfl⟩
  · refine .inr ⟨?_, h⟩
    rename_i hs
    simpa using hs

/-! ### Runs -/

/-- Dots leave what a dot leaves (R340). -/
theorem ppuDots_eq (k : Nat) (s : State) :
    ppuDots k s =
      { s with cpu := { s.cpu with nmiPending := (ppuDots k s).cpu.nmiPending }, ppu := (ppuDots k s).ppu } := by
  induction k generalizing s with
  | zero => rfl
  | succ k ih => simp only [ppuDots]; rw [ih, ppuDot_eq]

theorem ppuDots_add (j k : Nat) (s : State) : ppuDots (j + k) s = ppuDots k (ppuDots j s) := by
  induction j generalizing s with
  | zero => simp [ppuDots]
  | succ j ih => rw [Nat.succ_add]; exact ih _

/-- What reaching the next boundary can do: time passes for the counters and the PPU, no instruction runs. -/
theorem toBoundary_cases {s t : State} (h : toBoundary s = .next t) :
    s.halted = .running ∧ s.params.admitted = true ∧
      t = { s with
        cpu := { s.cpu with stall := 0, cyc := s.cpu.cyc + s.cpu.stall, nmiPending := t.cpu.nmiPending }
        ppu := t.ppu
        master := s.master + ((s.params.ppuPerCpu - s.master % s.params.ppuPerCpu) % s.params.ppuPerCpu +
          s.params.ppuPerCpu * s.cpu.stall) } := by
  unfold toBoundary at h
  split at h
  · cases h
  · split at h
    · cases h
    · refine ⟨‹_›, by simpa using ‹¬(!s.params.admitted) = true›, ?_⟩
      cases h
      dsimp only
      rw [ppuDots_eq]
      rfl

/-- At an instruction boundary it is reached already. -/
theorem toBoundary_self {s : State} (hr : s.halted = .running) (ha : s.params.admitted = true)
    (hm : s.master % s.params.ppuPerCpu = 0) (hs : s.cpu.stall = 0) : toBoundary s = .next s := by
  have hn : (s.params.ppuPerCpu - s.master % s.params.ppuPerCpu) % s.params.ppuPerCpu +
      s.params.ppuPerCpu * s.cpu.stall = 0 := by rw [hm, hs]; simp
  unfold toBoundary
  simp only [hr, ha, hn, Bool.not_true, Bool.false_eq_true, if_false]
  obtain ⟨⟨⟩⟩ := s
  cases hs
  rfl

/-- A run goes on from where a shorter one ended. -/
theorem runSteps_add (m n : Nat) (s : State) : runSteps (m + n) s = andThen (runSteps m s) (runSteps n) := by
  induction m generalizing s with
  | zero => simp [runSteps]
  | succ m ih =>
    rw [Nat.succ_add]
    simp only [runSteps, andThen_assoc]
    cases boundaryStep s <;> simp [ih]

/-! ### The master tick -/

@[simp] theorem endTick_cpu_stall (s : State) : (endTick s).cpu.stall = s.cpu.stall := ppuDot_stall s
@[simp] theorem endTick_cpu_cyc (s : State) : (endTick s).cpu.cyc = s.cpu.cyc := ppuDot_cyc s
@[simp] theorem endTick_cpu_p (s : State) : (endTick s).cpu.p = s.cpu.p := ppuDot_p s
@[simp] theorem endTick_cpu_pc (s : State) : (endTick s).cpu.pc = s.cpu.pc := ppuDot_pc s
@[simp] theorem endTick_ppu (s : State) : (endTick s).ppu = (ppuDot s).ppu := rfl
@[simp] theorem endTick_mem (s : State) : (endTick s).mem = s.mem := ppuDot_mem s
@[simp] theorem endTick_cart (s : State) : (endTick s).cart = s.cart := ppuDot_cart s
@[simp] theorem endTick_params (s : State) : (endTick s).params = s.params := ppuDot_params s
@[simp] theorem endTick_halted (s : State) : (endTick s).halted = s.halted := ppuDot_halted s
@[simp] theorem endTick_master (s : State) : (endTick s).master = s.master + 1 := by
  simp [endTick]
@[simp] theorem endTick_irqLine (s : State) : (endTick s).irqLine = s.irqLine := ppuDot_irqLine s
@[simp] theorem endTick_draws (s : State) : (endTick s).draws = s.draws := ppuDot_draws s

/-- A tick of a machine whose parameters are admitted (R401). -/
theorem runTick_admitted {s : State} (h : s.params.admitted = true) :
    runTick s = if isCpuTick s then andThen (cpuCycle s) fun s => .next (endTick s) else .next (endTick s) := by
  simp [runTick, h]

/-- A step that goes on starts from a running machine with admitted parameters and is, on a CPU tick, the CPU cycle and then
the dot, on another tick the dot alone (R401). -/
theorem step_cases {s t : State} (h : step s = .next t) :
    s.halted = .running ∧ s.params.admitted = true ∧
      ((isCpuTick s = true ∧ ∃ u, cpuCycle s = .next u ∧ t = endTick u) ∨ (isCpuTick s = false ∧ t = endTick s)) := by
  unfold step at h
  split at h
  · cases h
  · unfold runTick at h
    split at h
    · cases h
    refine ⟨‹_›, by simpa using ‹¬(!s.params.admitted) = true›, ?_⟩
    split at h
    · obtain ⟨u, hu, h⟩ := andThen_eq_next.mp h
      cases h
      exact .inl ⟨‹_›, u, hu, rfl⟩
    · cases h
      exact .inr ⟨by simpa using ‹¬isCpuTick s = true›, rfl⟩

/-- A halted machine answers its fault again (R444). -/
theorem step_halted {s : State} {f : Fault} (h : s.halted = .faulted f) : step s = .fault f := by
  rw [step, h]

/-- The end of a tick keeps the PPU's part of the invariant and touches no array. -/
theorem endTick_inv {s : State} (h : Safety.Inv s) : Safety.Inv (endTick s) := by
  obtain ⟨hc, hs, hn, hm⟩ := h
  exact ⟨ppuDot_counters hc, ppuDot_sprites hs, ppuDot_nmiLine hn, by
    unfold Safety.MemoryCanonical; rw [endTick_mem, endTick_cart]; exact hm⟩

/-- A bus access keeps the invariant. -/
theorem BusFrame.inv {s t : State} (f : BusFrame s t) (h : Safety.Inv s) : Safety.Inv t := by
  obtain ⟨hc, hs, hn, hm⟩ := h
  refine ⟨?_, ?_, f.nmiLine hn, f.wf hm.1, ?_⟩
  · unfold Safety.CountersBounded; rw [f.scanline, f.dot, f.params]; exact hc
  · unfold Safety.SpritesBounded; rw [f.secCount, f.lineCount]; exact hs
  · rw [f.cart]; exact hm.2

/-! ### Loading -/

/-- Placing a byte keeps the arrays and the cartridge images canonical, for a cartridge with an image. -/
theorem placeByte_canonical {a : Word} {v : Byte} {s : State} (hp : 0 < s.cart.prgSize)
    (h : Safety.MemoryCanonical s) : Safety.MemoryCanonical (placeByte a v s) := by
  unfold placeByte
  split
  · exact ⟨Memory.wf_putRam h.1 (ramIndex_lt a), h.2⟩
  · split
    · refine ⟨h.1, ?_⟩
      have hc := h.2
      simp only [Cartridge.wf, Bool.and_eq_true] at hc ⊢
      exact ⟨⟨Cells.wf_putZeroFill hc.1.1 (Nat.mod_lt _ hp), Cells.noZero_putZeroFill hc.1.2⟩, hc.2⟩
    · exact h

/-- The memory of the machine after reset is canonical. -/
theorem reset_canonical : Safety.MemoryCanonical State.reset := by decide

end Sys2Proof.Machine
end

