-- ==== Sys2Proof/Laws/PerInstr.lean ====
section
/-! SUPPORT. The one statement made of every instruction as syntax: its mnemonic and operand name it and nothing else
(30_encoding.md R120, R125). The round trip of the decoder over the encoder rests on it. -/

namespace Sys2Proof.Laws.Parts

/-- The mnemonic and the operand of an instruction stand for that instruction. -/
def Statement (i : Instr) : Prop := ∀ mn o, i.parts = some (mn, o) → Instr.ofParts mn o = some i

theorem lda (o : Operand) : Statement (.lda o) := by
  intro mn o h; cases h; rfl
theorem ldx (o : Operand) : Statement (.ldx o) := by
  intro mn o h; cases h; rfl
theorem ldy (o : Operand) : Statement (.ldy o) := by
  intro mn o h; cases h; rfl
theorem sta (o : Operand) : Statement (.sta o) := by
  intro mn o h; cases h; rfl
theorem stx (o : Operand) : Statement (.stx o) := by
  intro mn o h; cases h; rfl
theorem sty (o : Operand) : Statement (.sty o) := by
  intro mn o h; cases h; rfl
theorem tax : Statement .tax := by
  intro mn o h; cases h; rfl
theorem tay : Statement .tay := by
  intro mn o h; cases h; rfl
theorem txa : Statement .txa := by
  intro mn o h; cases h; rfl
theorem tya : Statement .tya := by
  intro mn o h; cases h; rfl
theorem tsx : Statement .tsx := by
  intro mn o h; cases h; rfl
theorem txs : Statement .txs := by
  intro mn o h; cases h; rfl
theorem pha : Statement .pha := by
  intro mn o h; cases h; rfl
theorem php : Statement .php := by
  intro mn o h; cases h; rfl
theorem pla : Statement .pla := by
  intro mn o h; cases h; rfl
theorem plp : Statement .plp := by
  intro mn o h; cases h; rfl
theorem adc (o : Operand) : Statement (.adc o) := by
  intro mn o h; cases h; rfl
theorem sbc (o : Operand) : Statement (.sbc o) := by
  intro mn o h; cases h; rfl
theorem cmp (o : Operand) : Statement (.cmp o) := by
  intro mn o h; cases h; rfl
theorem cpx (o : Operand) : Statement (.cpx o) := by
  intro mn o h; cases h; rfl
theorem cpy (o : Operand) : Statement (.cpy o) := by
  intro mn o h; cases h; rfl
theorem inc (o : Operand) : Statement (.inc o) := by
  intro mn o h; cases h; rfl
theorem inx : Statement .inx := by
  intro mn o h; cases h; rfl
theorem iny : Statement .iny := by
  intro mn o h; cases h; rfl
theorem dec (o : Operand) : Statement (.dec o) := by
  intro mn o h; cases h; rfl
theorem dex : Statement .dex := by
  intro mn o h; cases h; rfl
theorem dey : Statement .dey := by
  intro mn o h; cases h; rfl
theorem and (o : Operand) : Statement (.and o) := by
  intro mn o h; cases h; rfl
theorem ora (o : Operand) : Statement (.ora o) := by
  intro mn o h; cases h; rfl
theorem eor (o : Operand) : Statement (.eor o) := by
  intro mn o h; cases h; rfl
theorem bit (o : Operand) : Statement (.bit o) := by
  intro mn o h; cases h; rfl
theorem asl (o : Operand) : Statement (.asl o) := by
  intro mn o h; cases h; rfl
theorem lsr (o : Operand) : Statement (.lsr o) := by
  intro mn o h; cases h; rfl
theorem rol (o : Operand) : Statement (.rol o) := by
  intro mn o h; cases h; rfl
theorem ror (o : Operand) : Statement (.ror o) := by
  intro mn o h; cases h; rfl
theorem jmp (o : Operand) : Statement (.jmp o) := by
  intro mn o h; cases h; rfl
theorem jsr (target : Word) : Statement (.jsr target) := by
  intro mn o h; cases h; rfl
theorem rts : Statement .rts := by
  intro mn o h; cases h; rfl
theorem bcc (offset : Byte) : Statement (.bcc offset) := by
  intro mn o h; cases h; rfl
theorem bcs (offset : Byte) : Statement (.bcs offset) := by
  intro mn o h; cases h; rfl
theorem beq (offset : Byte) : Statement (.beq offset) := by
  intro mn o h; cases h; rfl
theorem bne (offset : Byte) : Statement (.bne offset) := by
  intro mn o h; cases h; rfl
theorem bmi (offset : Byte) : Statement (.bmi offset) := by
  intro mn o h; cases h; rfl
theorem bpl (offset : Byte) : Statement (.bpl offset) := by
  intro mn o h; cases h; rfl
theorem bvc (offset : Byte) : Statement (.bvc offset) := by
  intro mn o h; cases h; rfl
theorem bvs (offset : Byte) : Statement (.bvs offset) := by
  intro mn o h; cases h; rfl
theorem clc : Statement .clc := by
  intro mn o h; cases h; rfl
theorem sec : Statement .sec := by
  intro mn o h; cases h; rfl
theorem cli : Statement .cli := by
  intro mn o h; cases h; rfl
theorem sei : Statement .sei := by
  intro mn o h; cases h; rfl
theorem cld : Statement .cld := by
  intro mn o h; cases h; rfl
theorem sed : Statement .sed := by
  intro mn o h; cases h; rfl
theorem clv : Statement .clv := by
  intro mn o h; cases h; rfl
theorem brk : Statement .brk := by
  intro mn o h; cases h; rfl
theorem rti : Statement .rti := by
  intro mn o h; cases h; rfl
theorem nop : Statement .nop := by
  intro mn o h; cases h; rfl
theorem undefinedOpcode (opcode : Byte) : Statement (.undefinedOpcode opcode) := by
  intro mn o h; cases h

end Sys2Proof.Laws.Parts
end

