-- ==== Sys2Proof/Tests/Slice0.lean ====
section
/-! SUPPORT. The author's tests: ill-formed terms that the check refuses; the decoder against words and a matrix written out
from the spec; single steps against the vectors of spec/95_test_vectors.md; and for every statement of the obligations a
witness that meets its hypotheses. -/

namespace Sys2Proof.Tests

open Sys2Proof.Machine Sys2Proof.Spec

set_option maxRecDepth 100000

/-! ### Well-formedness -/

/-- LDA has no Zeropage,Y form (R152). -/
theorem test_wf_refuses_lda_zpy : (Instr.lda (.zpy 0x10)).wellFormed = false := by decide
/-- STA has no immediate form (R152). -/
theorem test_wf_refuses_sta_imm : (Instr.sta (.imm 0x10)).wellFormed = false := by decide
/-- INC has no accumulator form (R152). -/
theorem test_wf_refuses_inc_acc : (Instr.inc .acc).wellFormed = false := by decide
/-- JMP has no indexed form (R152). -/
theorem test_wf_refuses_jmp_abx : (Instr.jmp (.abx 0x1234)).wellFormed = false := by decide
/-- An operand of no byte is no operand of ADC (R152). -/
theorem test_wf_refuses_adc_imp : (Instr.adc .imp).wellFormed = false := by decide
/-- 0xA9 is a defined opcode, so no undefined one (R160). -/
theorem test_wf_refuses_defined_opcode : (Instr.undefinedOpcode 0xA9).wellFormed = false := by decide
/-- 0x89 is one of the 105 bytes (R160). -/
theorem test_wf_accepts_undefined_opcode : (Instr.undefinedOpcode 0x89).wellFormed = true := by decide
/-- Well-formed terms of every operand form. -/
theorem test_wf_accepts_forms :
    ([.lda (.imm 0), .lda (.zp 0), .lda (.zpx 0), .ldx (.zpy 0), .lda (.abs 0), .lda (.abx 0), .lda (.aby 0),
      .lda (.izx 0), .lda (.izy 0), .asl .acc, .jmp (.ind 0), .bne 0, .jsr 0, .nop] : List Instr).all
      Instr.wellFormed = true := by decide

/-! ### Decoding -/

/-- The opcode matrix as R151 prints it, row by row: mnemonic and addressing mode, nothing at an undefined byte. -/
def matrix : List (Option (Mnemonic × Mode)) :=
  let x : Option (Mnemonic × Mode) := none
  let o (mn : Mnemonic) (mode : Mode) : Option (Mnemonic × Mode) := some (mn, mode)
  [o .brk .imp, o .ora .izx, x, x, x, o .ora .zp, o .asl .zp, x, o .php .imp, o .ora .imm, o .asl .acc, x, x,
    o .ora .abs, o .asl .abs, x] ++
  [o .bpl .rel, o .ora .izy, x, x, x, o .ora .zpx, o .asl .zpx, x, o .clc .imp, o .ora .aby, x, x, x, o .ora
    .abx, o .asl .abx, x] ++
  [o .jsr .abs, o .and .izx, x, x, o .bit .zp, o .and .zp, o .rol .zp, x, o .plp .imp, o .and .imm, o .rol
    .acc, x, o .bit .abs, o .and .abs, o .rol .abs, x] ++
  [o .bmi .rel, o .and .izy, x, x, x, o .and .zpx, o .rol .zpx, x, o .sec .imp, o .and .aby, x, x, x, o .and
    .abx, o .rol .abx, x] ++
  [o .rti .imp, o .eor .izx, x, x, x, o .eor .zp, o .lsr .zp, x, o .pha .imp, o .eor .imm, o .lsr .acc, x, o
    .jmp .abs, o .eor .abs, o .lsr .abs, x] ++
  [o .bvc .rel, o .eor .izy, x, x, x, o .eor .zpx, o .lsr .zpx, x, o .cli .imp, o .eor .aby, x, x, x, o .eor
    .abx, o .lsr .abx, x] ++
  [o .rts .imp, o .adc .izx, x, x, x, o .adc .zp, o .ror .zp, x, o .pla .imp, o .adc .imm, o .ror .acc, x, o
    .jmp .ind, o .adc .abs, o .ror .abs, x] ++
  [o .bvs .rel, o .adc .izy, x, x, x, o .adc .zpx, o .ror .zpx, x, o .sei .imp, o .adc .aby, x, x, x, o .adc
    .abx, o .ror .abx, x] ++
  [x, o .sta .izx, x, x, o .sty .zp, o .sta .zp, o .stx .zp, x, o .dey .imp, x, o .txa .imp, x, o .sty .abs,
    o .sta .abs, o .stx .abs, x] ++
  [o .bcc .rel, o .sta .izy, x, x, o .sty .zpx, o .sta .zpx, o .stx .zpy, x, o .tya .imp, o .sta .aby, o .txs
    .imp, x, x, o .sta .abx, x, x] ++
  [o .ldy .imm, o .lda .izx, o .ldx .imm, x, o .ldy .zp, o .lda .zp, o .ldx .zp, x, o .tay .imp, o .lda .imm,
    o .tax .imp, x, o .ldy .abs, o .lda .abs, o .ldx .abs, x] ++
  [o .bcs .rel, o .lda .izy, x, x, o .ldy .zpx, o .lda .zpx, o .ldx .zpy, x, o .clv .imp, o .lda .aby, o .tsx
    .imp, x, o .ldy .abx, o .lda .abx, o .ldx .aby, x] ++
  [o .cpy .imm, o .cmp .izx, x, x, o .cpy .zp, o .cmp .zp, o .dec .zp, x, o .iny .imp, o .cmp .imm, o .dex
    .imp, x, o .cpy .abs, o .cmp .abs, o .dec .abs, x] ++
  [o .bne .rel, o .cmp .izy, x, x, x, o .cmp .zpx, o .dec .zpx, x, o .cld .imp, o .cmp .aby, x, x, x, o .cmp
    .abx, o .dec .abx, x] ++
  [o .cpx .imm, o .sbc .izx, x, x, o .cpx .zp, o .sbc .zp, o .inc .zp, x, o .inx .imp, o .sbc .imm, o .nop
    .imp, x, o .cpx .abs, o .sbc .abs, o .inc .abs, x] ++
  [o .beq .rel, o .sbc .izy, x, x, x, o .sbc .zpx, o .inc .zpx, x, o .sed .imp, o .sbc .aby, x, x, x, o .sbc
    .abx, o .inc .abx, x]

/-- The decoder's table, taken from R152, is the matrix of R151. -/
theorem test_decode_matrix :
    (List.range 256).map (fun b => (lookupOpcode (BitVec.ofNat 8 b)).map fun r => (r.mn, r.mode)) = matrix := by
  decide

/-- The base cycle costs of one mnemonic of each shape (R152). -/
theorem test_table_cycles :
    (tableEntry .lda .abx).map (·.cycles) = some 4 ∧ (tableEntry .sta .abx).map (·.cycles) = some 5 ∧
    (tableEntry .inc .abx).map (·.cycles) = some 7 ∧ (tableEntry .brk .imp).map (·.cycles) = some 7 ∧
    (tableEntry .jsr .abs).map (·.cycles) = some 6 ∧ (tableEntry .bne .rel).map (·.cycles) = some 2 := by decide

/-- `CYC` (R150) of the same opcodes, and of an undefined byte, which has none. -/
theorem test_params_cycles :
    [0xBD, 0x9D, 0xFE, 0x00, 0x20, 0xD0, 0x02].map Params.spec.cycles = [4, 5, 7, 7, 6, 2, 0] := by decide

/-- The words of the implied instructions, as 30_encoding.md R152 prints their opcodes. -/
theorem test_decode_implied :
    [0xAA, 0xA8, 0x8A, 0x98, 0xBA, 0x9A, 0x48, 0x08, 0x68, 0x28, 0xE8, 0xC8, 0xCA, 0x88].map (decodeTableWord 8) =
      [Instr.tax, .tay, .txa, .tya, .tsx, .txs, .pha, .php, .pla, .plp, .inx, .iny, .dex, .dey].map some ∧
    [0x18, 0x38, 0x58, 0x78, 0xD8, 0xF8, 0xB8, 0x00, 0x40, 0xEA, 0x60].map (decodeTableWord 8) =
      [Instr.clc, .sec, .cli, .sei, .cld, .sed, .clv, .brk, .rti, .nop, .rts].map some := by decide

/-- The words of the branches, offset 0xFE, and of the jumps to 0x1234 (R152, R132, R133, R136). -/
theorem test_decode_control :
    [0xFE90, 0xFEB0, 0xFEF0, 0xFED0, 0xFE30, 0xFE10, 0xFE50, 0xFE70].map (decodeTableWord 16) =
      [Instr.bcc 0xFE, .bcs 0xFE, .beq 0xFE, .bne 0xFE, .bmi 0xFE, .bpl 0xFE, .bvc 0xFE, .bvs 0xFE].map some ∧
    [0x12344C, 0x12346C, 0x123420].map (decodeTableWord 24) =
      [Instr.jmp (.abs 0x1234), .jmp (.ind 0x1234), .jsr 0x1234].map some := by decide

/-- The words of LDA in its eight modes (R152, R121). -/
theorem test_decode_lda_modes :
    [0x10A9, 0x10A5, 0x10B5, 0x10A1, 0x10B1].map (decodeTableWord 16) =
      [Instr.lda (.imm 0x10), .lda (.zp 0x10), .lda (.zpx 0x10), .lda (.izx 0x10), .lda (.izy 0x10)].map some ∧
    [0x1234AD, 0x1234BD, 0x1234B9].map (decodeTableWord 24) =
      [Instr.lda (.abs 0x1234), .lda (.abx 0x1234), .lda (.aby 0x1234)].map some := by decide

/-- A word of every other instruction with an operand (R152). -/
theorem test_decode_operands :
    [0x10B6, 0x10B4, 0x1091, 0x1096, 0x1094, 0x1069, 0x10F1, 0x10C1, 0x10E0, 0x10C4].map (decodeTableWord 16) =
      [Instr.ldx (.zpy 0x10), .ldy (.zpx 0x10), .sta (.izy 0x10), .stx (.zpy 0x10), .sty (.zpx 0x10), .adc (.imm 0x10),
        .sbc (.izy 0x10), .cmp (.izx 0x10), .cpx (.imm 0x10), .cpy (.zp 0x10)].map some ∧
    [0x1234FE, 0x1234DE, 0x12343D, 0x123419, 0x12344D, 0x12342C].map (decodeTableWord 24) =
      [Instr.inc (.abx 0x1234), .dec (.abx 0x1234), .and (.abx 0x1234), .ora (.aby 0x1234), .eor (.abs 0x1234),
        .bit (.abs 0x1234)].map some ∧
    [0x0A, 0x4A, 0x2A, 0x6A].map (decodeTableWord 8) =
      [Instr.asl .acc, .lsr .acc, .rol .acc, .ror .acc].map some ∧
    [0x1006, 0x1056, 0x1036, 0x1066].map (decodeTableWord 16) =
      [Instr.asl (.zp 0x10), .lsr (.zpx 0x10), .rol (.zpx 0x10), .ror (.zp 0x10)].map some := by decide

/-- An undefined byte decodes to the instruction that names it (R124, R160). -/
theorem test_decode_undefined : decodeTableWord 8 0x02 = some (.undefinedOpcode 0x02) := by decide

/-! ### Single steps (spec/95_test_vectors.md) -/

/-- The start state of a vector: reset, an instruction about to run at 0x8000, `cpu.stall` 0 (95_test_vectors.md,
conventions), with these registers and these bytes of `ram`. -/
def start (f : Cpu → Cpu) (ram : List Host.Cell) : State :=
  { State.reset with
    cpu := f { State.reset.cpu with pc := 0x8000, stall := 0 }, mem := { Memory.blank with ram := ram } }

/-- The flags of a status byte, B clear. -/
def flags (b : Byte) : Flags := Flags.unpack b Flags.reset

/-- The state with other parameters. -/
abbrev withParams (f : Params → Params) (s : State) : State := { s with params := f s.params }

/-- What an outcome's state shows. -/
def after {σ α : Type} (x : Result σ) (f : σ → α) : Option α :=
  match x with
  | .next t => some (f t)
  | _ => none

/-- A, X, Y, SP, the status byte, PC and the cycles the step reports. -/
structure Regs where
  a : Byte
  x : Byte
  y : Byte
  sp : Byte
  p : Byte
  pc : Word
  cycles : Nat
  deriving DecidableEq, Repr

/-- The registers of a state after a step. -/
def regs (t : State) : Regs := ⟨t.cpu.a, t.cpu.x, t.cpu.y, t.cpu.sp, t.cpu.p.pack, t.cpu.pc, t.cpu.stall + 1⟩

/-- A byte of `ram` of the outcome's state, if it was written or listed. -/
def ramOf (x : Result State) (i : Nat) : Option Byte := (after x fun t => Cells.get t.mem.ram i).join

/-- 2.1 row 5: LDA $02FF,X crosses a page. -/
theorem test_lda_abx_cross :
    after (exec (.lda (.abx 0x02FF)) (start (fun c => { c with x := 0x01 }) [(0x300, 0x9A)])) regs =
      some ⟨0x9A, 0x01, 0x00, 0xFD, 0xA4, 0x8003, 5⟩ := by decide

/-- 2.1 row 8: LDA ($20,X), the pointer wraps in page zero. -/
theorem test_lda_izx_wrap :
    after (exec (.lda (.izx 0x20)) (start (fun c => { c with x := 0xDF })
      [(0x000, 0x02), (0x0FF, 0x34), (0x234, 0xAB)])) regs = some ⟨0xAB, 0xDF, 0x00, 0xFD, 0xA4, 0x8002, 6⟩ := by decide

/-- 2.1 row 11: LDX $10,Y. -/
theorem test_ldx_zpy :
    after (exec (.ldx (.zpy 0x10)) (start (fun c => { c with y := 0xF8 }) [(0x008, 0x80)])) regs =
      some ⟨0x00, 0x80, 0xF8, 0xFD, 0xA4, 0x8002, 4⟩ := by decide

/-- 2.1 row 13: LDY $0200,X, no page cross, a zero. -/
theorem test_ldy_abx :
    after (exec (.ldy (.abx 0x0200)) (start (fun c => { c with x := 0x80 }) [(0x280, 0x00)])) regs =
      some ⟨0x00, 0x80, 0x00, 0xFD, 0x26, 0x8003, 4⟩ := by decide

/-- 2.1 row 15: STA $02FF,X, a page crossed, no extra cycle, no flag. -/
theorem test_sta_abx :
    let x := exec (.sta (.abx 0x02FF)) (start (fun c => { c with a := 0x77, x := 0x01, p := flags 0xA5 }) [])
    after x regs = some ⟨0x77, 0x01, 0x00, 0xFD, 0xA5, 0x8003, 5⟩ ∧ ramOf x 0x300 = some 0x77 := by decide

/-- 2.1 row 17: STA ($40,X) to 0x1800, a mirror of `ram[0]`. -/
theorem test_sta_izx_mirror :
    ramOf (exec (.sta (.izx 0x40)) (start (fun c => { c with a := 0x9C, x := 0x04 }) [(0x044, 0x00), (0x045, 0x18)])) 0 =
      some 0x9C := by decide

/-- 2.1 row 18: STX $10,Y. -/
theorem test_stx_zpy :
    ramOf (exec (.stx (.zpy 0x10)) (start (fun c => { c with x := 0xEE, y := 0xF0 }) [])) 0 = some 0xEE := by decide

/-- 2.1 row 19: STY $1FFF. -/
theorem test_sty_abs :
    ramOf (exec (.sty (.abs 0x1FFF)) (start (fun c => { c with y := 0x42 }) [])) 0x7FF = some 0x42 := by decide

/-- 2.2 rows 1, 2, 3, 4. -/
theorem test_transfers :
    after (exec .tax (start (fun c => { c with a := 0x80, x := 0x01 }) [])) regs =
      some ⟨0x80, 0x80, 0x00, 0xFD, 0xA4, 0x8001, 2⟩ ∧
    after (exec .tay (start (fun c => { c with y := 0x09 }) [])) regs = some ⟨0x00, 0x00, 0x00, 0xFD, 0x26, 0x8001, 2⟩ ∧
    after (exec .txa (start (fun c => { c with a := 0x80, x := 0x7F }) [])) regs =
      some ⟨0x7F, 0x7F, 0x00, 0xFD, 0x24, 0x8001, 2⟩ ∧
    after (exec .tya (start (fun c => { c with y := 0xFF }) [])) regs = some ⟨0xFF, 0x00, 0xFF, 0xFD, 0xA4, 0x8001, 2⟩ := by decide

/-- 2.2 rows 5 and 6: TSX sets the flags, TXS none. -/
theorem test_transfers_sp :
    after (exec .tsx (start (fun c => { c with x := 0x05, sp := 0x00 }) [])) regs =
      some ⟨0x00, 0x00, 0x00, 0x00, 0x26, 0x8001, 2⟩ ∧
    after (exec .txs (start (fun c => c) [])) regs = some ⟨0x00, 0x00, 0x00, 0x00, 0x24, 0x8001, 2⟩ := by decide

/-- 2.2 row 9: PHA with SP 0 wraps. -/
theorem test_pha_wrap :
    let x := exec .pha (start (fun c => { c with a := 0xCD, sp := 0x00 }) [])
    after x regs = some ⟨0xCD, 0x00, 0x00, 0xFF, 0x24, 0x8001, 3⟩ ∧ ramOf x 0x100 = some 0xCD := by decide

/-- 2.2 row 12: PHP, bit 4 set in the pushed copy only. -/
theorem test_php :
    let x := exec .php (start (fun c => { c with p := flags 0xE3 }) [])
    after x regs = some ⟨0x00, 0x00, 0x00, 0xFC, 0xE3, 0x8001, 3⟩ ∧ ramOf x 0x1FD = some 0xF3 := by decide

/-- 2.2 row 11: PLA with SP FF wraps. -/
theorem test_pla :
    after (exec .pla (start (fun c => { c with sp := 0xFF }) [(0x100, 0x80)])) regs =
      some ⟨0x80, 0x00, 0x00, 0x00, 0xA4, 0x8001, 4⟩ := by decide

/-- 2.2 row 14: PLP ignores bits 5 and 4. -/
theorem test_plp :
    after (exec .plp (start (fun c => { c with sp := 0xFC }) [(0x1FD, 0xFF)])) regs =
      some ⟨0x00, 0x00, 0x00, 0xFD, 0xEF, 0x8001, 4⟩ := by decide

/-- 2.3 ADC rows 2 and 10: V from two positives, V from the carry. -/
theorem test_adc :
    after (exec (.adc (.imm 0x50)) (start (fun c => { c with a := 0x50 }) [])) regs =
      some ⟨0xA0, 0x00, 0x00, 0xFD, 0xE4, 0x8002, 2⟩ ∧
    after (exec (.adc (.imm 0x00)) (start (fun c => { c with a := 0x7F, p := flags 0x25 }) [])) regs =
      some ⟨0x80, 0x00, 0x00, 0xFD, 0xE4, 0x8002, 2⟩ := by decide

/-- 2.3 ADC row 14: a binary result with D set. -/
theorem test_adc_decimal :
    after (exec (.adc (.imm 0x01)) (start (fun c => { c with a := 0x09, p := flags 0x2C }) [])) regs =
      some ⟨0x0A, 0x00, 0x00, 0xFD, 0x2C, 0x8002, 2⟩ := by decide

/-- 2.3 SBC rows 1 and 9: borrow out, borrow in. -/
theorem test_sbc :
    after (exec (.sbc (.imm 0xF0)) (start (fun c => { c with a := 0x50, p := flags 0x25 }) [])) regs =
      some ⟨0x60, 0x00, 0x00, 0xFD, 0x24, 0x8002, 2⟩ ∧
    after (exec (.sbc (.imm 0x00)) (start (fun c => c) [])) regs = some ⟨0xFF, 0x00, 0x00, 0xFD, 0xA4, 0x8002, 2⟩ := by decide

/-- 2.3 compares rows 2, 5, 6. -/
theorem test_compares :
    after (exec (.cmp (.imm 0x41)) (start (fun c => { c with a := 0x40, p := flags 0x65 }) [])) regs =
      some ⟨0x40, 0x00, 0x00, 0xFD, 0xE4, 0x8002, 2⟩ ∧
    after (exec (.cpx (.zp 0x10)) (start (fun c => { c with x := 0x10 }) [(0x010, 0x0F)])) regs =
      some ⟨0x00, 0x10, 0x00, 0xFD, 0x25, 0x8002, 3⟩ ∧
    after (exec (.cpy (.imm 0x80)) (start (fun c => { c with y := 0x7F }) [])) regs =
      some ⟨0x00, 0x00, 0x7F, 0xFD, 0xA4, 0x8002, 2⟩ := by decide

/-- 2.3 rows 7 and 9: the wraps of INC and DEC. -/
theorem test_inc_dec :
    let x := exec (.inc (.zp 0x10)) (start (fun c => { c with p := flags 0x25 }) [(0x010, 0xFF)])
    let y := exec (.dec (.zpx 0x10)) (start (fun c => { c with x := 0xF0 }) [(0x000, 0x00)])
    after x regs = some ⟨0x00, 0x00, 0x00, 0xFD, 0x27, 0x8002, 5⟩ ∧ ramOf x 0x010 = some 0x00 ∧
    after y regs = some ⟨0x00, 0xF0, 0x00, 0xFD, 0xA4, 0x8002, 6⟩ ∧ ramOf y 0x000 = some 0xFF := by decide

/-- 2.3 rows 11 to 14. -/
theorem test_inc_dec_registers :
    after (exec .inx (start (fun c => { c with x := 0xFF }) [])) regs = some ⟨0x00, 0x00, 0x00, 0xFD, 0x26, 0x8001, 2⟩ ∧
    after (exec .iny (start (fun c => { c with y := 0x7F }) [])) regs = some ⟨0x00, 0x00, 0x80, 0xFD, 0xA4, 0x8001, 2⟩ ∧
    after (exec .dex (start (fun c => c) [])) regs = some ⟨0x00, 0xFF, 0x00, 0xFD, 0xA4, 0x8001, 2⟩ ∧
    after (exec .dey (start (fun c => { c with y := 0x01 }) [])) regs = some ⟨0x00, 0x00, 0x00, 0xFD, 0x26, 0x8001, 2⟩ := by decide

/-- 2.4 rows 2, 3 and 4. -/
theorem test_logic :
    after (exec (.ora (.zp 0x10)) (start (fun c => { c with a := 0x01 }) [(0x010, 0x80)])) regs =
      some ⟨0x81, 0x00, 0x00, 0xFD, 0xA4, 0x8002, 3⟩ ∧
    after (exec (.eor (.imm 0xFF)) (start (fun c => { c with a := 0xFF }) [])) regs =
      some ⟨0x00, 0x00, 0x00, 0xFD, 0x26, 0x8002, 2⟩ ∧
    after (exec (.and (.izy 0x10)) (start (fun c => { c with a := 0xFF, y := 0x01 })
      [(0x010, 0xFF), (0x011, 0x02), (0x300, 0x81)])) regs = some ⟨0x81, 0x00, 0x01, 0xFD, 0xA4, 0x8002, 6⟩ := by decide

/-- 2.4 row 5: Z from the and, N and V from the operand. -/
theorem test_bit :
    after (exec (.bit (.zp 0x10)) (start (fun c => { c with a := 0x01 }) [(0x010, 0xC0)])) regs =
      some ⟨0x01, 0x00, 0x00, 0xFD, 0xE6, 0x8002, 3⟩ := by decide

/-- 2.4 rows 9 and 10: the old carry is not shifted in. -/
theorem test_shifts :
    after (exec (.asl .acc) (start (fun c => { c with a := 0x41, p := flags 0x25 }) [])) regs =
      some ⟨0x82, 0x00, 0x00, 0xFD, 0xA4, 0x8001, 2⟩ ∧
    after (exec (.lsr .acc) (start (fun c => { c with a := 0x01 }) [])) regs =
      some ⟨0x00, 0x00, 0x00, 0xFD, 0x27, 0x8001, 2⟩ := by decide

/-- 2.4 rows 15 and 16: ROR A, ROL $0200,X. -/
theorem test_rotates :
    let x := exec (.rol (.abx 0x0200)) (start (fun c => { c with x := 0x01, p := flags 0x25 }) [(0x201, 0x55)])
    after (exec (.ror .acc) (start (fun c => { c with p := flags 0x25 }) [])) regs =
      some ⟨0x80, 0x00, 0x00, 0xFD, 0xA4, 0x8001, 2⟩ ∧
    after x regs = some ⟨0x00, 0x01, 0x00, 0xFD, 0xA4, 0x8003, 7⟩ ∧ ramOf x 0x201 = some 0xAB := by decide

/-- 2.5 row 3: the second pointer byte comes from the same page. -/
theorem test_jmp_ind :
    after (exec (.jmp (.ind 0x02FF)) (start (fun c => c) [(0x200, 0x56), (0x2FF, 0x78), (0x300, 0x99)])) regs =
      some ⟨0x00, 0x00, 0x00, 0xFD, 0x24, 0x5678, 5⟩ := by decide

/-- 2.5 row 5: JSR with SP 0. -/
theorem test_jsr :
    let x := exec (.jsr 0x9000) (start (fun c => { c with sp := 0x00 }) [])
    after x regs = some ⟨0x00, 0x00, 0x00, 0xFE, 0x24, 0x9000, 6⟩ ∧ ramOf x 0x100 = some 0x80 ∧ ramOf x 0x1FF = some 0x02 := by decide

/-- 2.5 row 7: RTS, FFFF plus 1 wraps. -/
theorem test_rts :
    after (exec .rts (start (fun c => { c with sp := 0xFB }) [(0x1FC, 0xFF), (0x1FD, 0xFF)])) regs =
      some ⟨0x00, 0x00, 0x00, 0xFD, 0x24, 0x0000, 6⟩ := by decide

/-- 2.5 rows 13, 14, 12 and 20 (relative to the next instruction). -/
theorem test_branches_carry_zero :
    after (exec (.bcc 0x7F) (start (fun c => { c with pc := 0x80F0 }) [])) regs =
      some ⟨0x00, 0x00, 0x00, 0xFD, 0x24, 0x8171, 4⟩ ∧
    after (exec (.bcs 0x7F) (start (fun c => { c with pc := 0x8070, p := flags 0x25 }) [])) regs =
      some ⟨0x00, 0x00, 0x00, 0xFD, 0x25, 0x80F1, 3⟩ ∧
    after (exec (.beq 0xFD) (start (fun c => { c with p := flags 0x26 }) [])) regs =
      some ⟨0x00, 0x00, 0x00, 0xFD, 0x26, 0x7FFF, 4⟩ ∧
    after (exec (.bne 0xFF) (start (fun c => { c with pc := 0x80FE }) [])) regs =
      some ⟨0x00, 0x00, 0x00, 0xFD, 0x24, 0x80FF, 4⟩ := by decide

/-- 2.5 rows 15 to 18. -/
theorem test_branches_sign_overflow :
    after (exec (.bmi 0x80) (start (fun c => { c with pc := 0x8100, p := flags 0xA4 }) [])) regs =
      some ⟨0x00, 0x00, 0x00, 0xFD, 0xA4, 0x8082, 4⟩ ∧
    after (exec (.bpl 0x10) (start (fun c => { c with p := flags 0xA4 }) [])) regs =
      some ⟨0x00, 0x00, 0x00, 0xFD, 0xA4, 0x8002, 2⟩ ∧
    after (exec (.bvc 0x00) (start (fun c => c) [])) regs = some ⟨0x00, 0x00, 0x00, 0xFD, 0x24, 0x8002, 3⟩ ∧
    after (exec (.bvs 0x02) (start (fun c => { c with p := flags 0x64 }) [])) regs =
      some ⟨0x00, 0x00, 0x00, 0xFD, 0x64, 0x8004, 3⟩ := by decide

/-- 2.6 rows 1 to 8, the status byte alone. -/
theorem test_flag_instructions :
    [(Instr.clc, 0xEF), (.sec, 0x24), (.cli, 0x24), (.sei, 0x20), (.cld, 0x2C), (.sed, 0x24), (.clv, 0x64),
      (.nop, 0xE7)].map (fun r => after (exec r.1 (start (fun c => { c with p := flags r.2 }) [])) fun t => t.cpu.p.pack) =
      [0xEE, 0x25, 0x20, 0x24, 0x24, 0x2C, 0x24, 0xE7].map some := by decide

/-- 2.6 row 9: BRK, the vector at 0x9000. -/
theorem test_brk :
    let s := start (fun c => { c with p := flags 0xE3 }) []
    let x := exec .brk { s with cart := { s.cart with prg := [(0x7FFF, 0x90)] } }
    after x regs = some ⟨0x00, 0x00, 0x00, 0xFA, 0xE7, 0x9000, 7⟩ ∧
      [0x1FD, 0x1FC, 0x1FB].map (ramOf x) = [0x80, 0x02, 0xF3].map some := by decide

/-- 2.6 row 11: RTI, the stack wraps. -/
theorem test_rti :
    after (exec .rti (start (fun c => { c with sp := 0xFE, p := flags 0xEF })
      [(0x100, 0xCD), (0x101, 0xAB), (0x1FF, 0x00)])) regs = some ⟨0x00, 0x00, 0x00, 0x01, 0x20, 0xABCD, 6⟩ := by decide

/-- 2.7 row 5: the fault names the byte and its address. -/
theorem test_undefined_opcode :
    exec (.undefinedOpcode 0x02) (start (fun c => c) []) = .fault (.configurationError (some 0x02) 0x8000) := by rfl

/-- 2.7 row 1: the NMI entry, the vector at 0x9000. -/
theorem test_nmi_entry :
    let s := start (fun c => { c with pc := 0x8123, sp := 0x01, p := flags 0xE1, nmiPending := true }) []
    let x := cpuStep { s with cart := { s.cart with prg := [(0x7FFB, 0x90)] } }
    after x regs = some ⟨0x00, 0x00, 0x00, 0xFE, 0xE5, 0x9000, 7⟩ ∧
      [0x101, 0x100, 0x1FF].map (ramOf x) = [0x81, 0x23, 0xF1].map some := by decide

/-- 2.7 row 6: a read of the hole faults. -/
theorem test_hole :
    exec (.lda (.abs 0x4016)) (start (fun c => c) []) = .fault (.addressOutOfRange 0x4016 .read 0x8000) := by rfl

/-- 2.8 rows 2 and 3: the nametable mirrors. -/
theorem test_nt_index :
    [0x2000, 0x23FF, 0x2400, 0x2800, 0x2C00, 0x2FFF, 0x3000, 0x3EFF].map (ntIndex .vertical) =
      [0x000, 0x3FF, 0x400, 0x000, 0x400, 0x7FF, 0x000, 0x6FF] ∧
    [0x2000, 0x23FF, 0x2400, 0x2800, 0x2C00, 0x2FFF, 0x3000, 0x3EFF].map (ntIndex .horizontal) =
      [0x000, 0x3FF, 0x000, 0x400, 0x400, 0x7FF, 0x000, 0x6FF] := by decide

/-- 2.8 rows 4 and 5: the palette mirrors and keeps six bits. -/
theorem test_palette_write :
    (ppuWrite Cartridge.blank 0x3F10 0xFF Memory.blank).pal = [(0x00, 0x3F)] ∧
    (ppuWrite Cartridge.blank 0x3FFF 0x12 Memory.blank).pal = [(0x1F, 0x12)] := by decide

/-- 2.9 sequence A: the latches of ports 0, 5 and 6. -/
theorem test_scroll_and_address :
    let w (p : BitVec 3) (d : Byte) (x : Result State) : Result State := andThen x (portWrite p d)
    let s := w 5 0x5E (w 5 0x7D (w 0 0x03 (.next State.reset)))
    let show_ (x : Result State) := after x fun t => (t.ppu.t, t.ppu.v, t.ppu.x, t.ppu.w)
    show_ s = some (0x6D6F, 0x0000, 5, false) ∧ show_ (w 6 0x3D s) = some (0x3D6F, 0x0000, 5, true) ∧
      show_ (w 6 0xF0 (w 6 0x3D s)) = some (0x3DF0, 0x3DF0, 5, false) := by decide

/-- 2.9 NMI line row 1: enabling NMI inside vblank requests one. -/
theorem test_nmi_line :
    after (portWrite 0 0x80 { State.reset with ppu := { State.reset.ppu with vblank := true } })
      (fun t => (t.ppu.nmiLine, t.cpu.nmiPending)) = some (true, true) := by decide

/-- T6: IncCoarseX. -/
theorem test_inc_coarse_x :
    [0x001F, 0x041F, 0x0005, 0x7BFF].map incCoarseX = [0x0400, 0x0000, 0x0006, 0x7FE0] := by decide

/-- T6: IncY. -/
theorem test_inc_y :
    [0x73A0, 0x7BA0, 0x73E0, 0x7BE0, 0x73C0, 0x2000, 0x63A0].map incY =
      [0x0800, 0x0000, 0x0000, 0x0800, 0x03E0, 0x3000, 0x73A0] := by decide

/-- 2.5 row 1: JMP $1234. -/
theorem test_jmp_abs :
    after (exec (.jmp (.abs 0x1234)) (start (fun c => c) [])) regs = some ⟨0x00, 0x00, 0x00, 0xFD, 0x24, 0x1234, 3⟩ := by
  decide

/-- 49_dma_clock.md R411: STA $4014 from an even `cpu.cyc` costs 4 + 513 cycles. -/
theorem test_dma_cycles :
    after (exec (.sta (.abs 0x4014)) (start (fun c => { c with a := 0x80, cyc := 0 }) [])) (fun t => t.cpu.stall + 1) =
      some 517 := by decide

/-- U12: with `DECIMAL_ENABLED` true ADC and SBC are refused where D is set, and binary where it is clear. -/
theorem test_decimal_refused :
    let s (p : Byte) : State :=
      withParams (fun k => { k with decimalEnabled := true }) (start (fun c => { c with a := 0x09, p := flags p }) [])
    exec (.adc (.imm 0x01)) (s 0x2C) = .refused .decimalArithmetic ∧
    exec (.sbc (.abs 0x4000)) (s 0x2C) = .refused .decimalArithmetic ∧
    after (exec (.adc (.imm 0x01)) (s 0x24)) regs = some ⟨0x0A, 0x00, 0x00, 0xFD, 0x24, 0x8002, 2⟩ := ⟨rfl, rfl, by decide⟩

/-- U10: with `HOLE_POLICY = ram` a byte stored in the hole is read back there and nowhere else. -/
theorem test_hole_ram :
    let s := withParams (fun k => { k with holePolicy := .ram }) (start (fun c => { c with a := 0x77, x := 0x01 }) [])
    let x := andThen (exec (.sta (.abs 0x4015)) s) fun t => exec (.stx (.abs 0x7FFF)) t
    [0x4015, 0x7FFF].map (fun w => after (andThen x fun t => exec (.ldy (.abs w)) t) fun t => t.cpu.y) =
      [0x77, 0x01].map some := by decide

/-- U13: with `JMP_IND_PAGE_WRAP` false the second pointer byte of 2.5 row 3 comes from the next page. -/
theorem test_jmp_ind_no_wrap :
    after (exec (.jmp (.ind 0x02FF)) (withParams (fun k => { k with jmpIndPageWrap := false })
      (start (fun c => c) [(0x200, 0x56), (0x2FF, 0x78), (0x300, 0x99)]))) (fun t => t.cpu.pc) = some 0x9978 := by decide

/-- U15: with `B_ON_HW_INTERRUPT` false 2.7 row 1 pushes a status byte with bit 4 clear. -/
theorem test_nmi_entry_b_clear :
    ramOf (nmiEntry (withParams (fun k => { k with bOnHwInterrupt := false })
      (start (fun c => { c with sp := 0x01, p := flags 0xE1 }) []))) 0x1FF = some 0xE1 := by decide

/-- U9: no dot in a CPU cycle is no admitted configuration. -/
theorem test_params_refused :
    step (withParams (fun k => { k with ppuPerCpu := 0 }) State.reset) = .refused .parametersNotAdmitted := by rfl

/-- LDA #$10 placed where the machine fetches: the very next step runs it. -/
theorem test_fetch_word :
    after (step (State.reset.withFetchWord 16 0x10A9)) regs = some ⟨0x10, 0x00, 0x00, 0xFD, 0x24, 0x0002, 2⟩ := by decide

/-! ### Witnesses -/

/-- The machine after reset, the PPU not rendering. -/
abbrev idle : State := State.reset

/-- The machine after reset with the background on: rendering on scanline 0. -/
def drawing : State := { State.reset with ppu := { State.reset.ppu with mask := 0x08 } }

/-- Sprites on, on the pre-render line. -/
def preRender : State := { State.reset with ppu := { State.reset.ppu with mask := 0x10, scanline := 261 } }

/-- Everything on, below the picture: not rendering. -/
def belowPicture : State := { State.reset with ppu := { State.reset.ppu with mask := 0x18, scanline := 240 } }

/-- An array behind the hole (`HOLE_POLICY = ram`). -/
abbrev holeOfRam : State := withParams (fun k => { k with holePolicy := .ram }) State.reset

/-- `DECIMAL_ENABLED` true, D set. -/
def decimal : State :=
  withParams (fun k => { k with decimalEnabled := true })
    { State.reset with cpu := { State.reset.cpu with p := { State.reset.cpu.p with d := true } } }

/-- R317 at its boundary values. -/
theorem witness_Rendering :
    ¬Rendering idle ∧ Rendering drawing ∧ Rendering preRender ∧ ¬Rendering belowPicture ∧
    Rendering { drawing with ppu := { drawing.ppu with scanline := 239 } } := by decide

/-- The windows of R71 and R78 at their boundary values. -/
theorem witness_windows :
    (InRam 0x0000 ∧ InRam 0x1FFF ∧ ¬InRam 0x2000) ∧ (InPorts 0x2000 ∧ InPorts 0x3FFF ∧ ¬InPorts 0x4000) ∧
    (InHole 0x4000 ∧ InHole 0x4013 ∧ ¬InHole 0x4014 ∧ InHole 0x4015 ∧ InHole 0x7FFF ∧ ¬InHole 0x8000) ∧
    (InPrg 0x8000 ∧ InPrg 0xFFFF ∧ ¬InPrg 0x7FFF) ∧
    (AtPort 7 0x2007 ∧ AtPort 7 0x3FFF ∧ AtPort 4 0x2004 ∧ AtPort 4 0x3FFC ∧ ¬AtPort 7 0x2006) := by decide

/-- R78: with `HOLE_POLICY = fault` nothing lies in the hole, with `ram` a read and a write there have a meaning. -/
theorem witness_hole :
    (Unmapped 0x4000 idle ∧ Unmapped 0x4013 idle ∧ Unmapped 0x4015 idle ∧ Unmapped 0x7FFF idle ∧ ¬Unmapped 0x4014 idle) ∧
    (Readable 0x4000 holeOfRam ∧ Writable 0x4013 holeOfRam ∧ Readable 0x4015 holeOfRam ∧ Writable 0x7FFF holeOfRam) :=
  ⟨by decide, by decide⟩

/-- What the clauses of a reading rule need, in its absolute form. -/
structure ReadingWitness (i : Operand → Instr) : Prop where
  form : ∀ w, (i (.abs w)).wellFormed = true
  address : ∀ w s, effective (.abs w) s = .next (⟨w, false⟩, s)
  readable : ∀ w s, Readable w s → OperandReadable (.abs w) s
  hole : effective (.abs 0x4000) idle = .next (⟨0x4000, false⟩, idle) ∧ Unmapped 0x4000 idle

theorem readingWitness (i : Operand → Instr) (h : ∀ w, (i (.abs w)).wellFormed = true) : ReadingWitness i :=
  ⟨h, fun _ _ => rfl, fun w _ hr => ⟨⟨w, false⟩, rfl, hr⟩, rfl, by decide⟩

/-- Addresses where a read has a meaning, at the boundary values of the windows. -/
theorem witness_readable :
    [0x0000, 0x1FFF, 0x2000, 0x2006, 0x2007, 0x3FFF, 0x4014, 0x8000, 0xFFFF].all
      (fun w => decide (Readable w idle)) = true ∧
    [0x0000, 0x1FFF, 0x2000, 0x2006, 0x2008, 0x3FFE, 0x4014, 0x8000, 0xFFFF].all
      (fun w => decide (Readable w drawing)) = true := by decide

/-- Addresses where a write has a meaning, at the boundary values of the windows. -/
theorem witness_writable :
    [0x0000, 0x1FFF, 0x2000, 0x2004, 0x2007, 0x3FFF, 0x8000, 0xFFFF].all (fun w => decide (Writable w idle)) = true ∧
    [0x0000, 0x1FFF, 0x2000, 0x2006, 0x2008, 0x3FFE, 0x8000, 0xFFFF].all (fun w => decide (Writable w drawing)) = true :=
  by decide

/-- An immediate operand can always be read. -/
theorem witness_immediate (b : Byte) (s : State) : OperandReadable (.imm b) s := trivial

theorem witness_LoadsSetTheRegisterAndZN : ReadingWitness .lda ∧ ReadingWitness .ldx ∧ ReadingWitness .ldy :=
  ⟨readingWitness _ fun _ => rfl, readingWitness _ fun _ => rfl, readingWitness _ fun _ => rfl⟩
/-- Both sides of the rule of ADC and SBC: refused, and run (with D set, or with `DECIMAL_ENABLED` true). -/
theorem witness_BinaryRule :
    (decimal.params.decimalEnabled = true ∧ decimal.cpu.p.d = true) ∧
    ¬(idle.params.decimalEnabled = true ∧ idle.cpu.p.d = true) := by decide
theorem witness_AdcAddsWithCarry : ReadingWitness .adc := readingWitness _ fun _ => rfl
theorem witness_SbcSubtractsWithBorrow : ReadingWitness .sbc := readingWitness _ fun _ => rfl
theorem witness_OverflowTruthTable :
    (idle.params.decimalEnabled = false ∨ idle.cpu.p.d = false) ∧ ¬(decimal.params.decimalEnabled = false ∨ decimal.cpu.p.d = false) := by decide
theorem witness_ComparesSetCZN : ReadingWitness .cmp ∧ ReadingWitness .cpx ∧ ReadingWitness .cpy :=
  ⟨readingWitness _ fun _ => rfl, readingWitness _ fun _ => rfl, readingWitness _ fun _ => rfl⟩
theorem witness_LogicAndBitTest :
    ReadingWitness .and ∧ ReadingWitness .ora ∧ ReadingWitness .eor ∧ ReadingWitness .bit :=
  ⟨readingWitness _ fun _ => rfl, readingWitness _ fun _ => rfl, readingWitness _ fun _ => rfl,
    readingWitness _ fun _ => rfl⟩

/-- What the clauses of a storing or modifying rule need, in its absolute form. -/
structure StoringWitness (i : Operand → Instr) : Prop where
  form : ∀ w, (i (.abs w)).wellFormed = true
  memory : ∀ w, Operand.abs w ≠ .acc
  address : ∀ w s, effective (.abs w) s = .next (⟨w, false⟩, s)

theorem storingWitness (i : Operand → Instr) (h : ∀ w, (i (.abs w)).wellFormed = true) : StoringWitness i :=
  ⟨h, fun _ => nofun, fun _ _ => rfl⟩

theorem witness_StoresWriteTheRegister : StoringWitness .sta ∧ StoringWitness .stx ∧ StoringWitness .sty :=
  ⟨storingWitness _ fun _ => rfl, storingWitness _ fun _ => rfl, storingWitness _ fun _ => rfl⟩
theorem witness_IncrementsAndDecrementsOfMemory : StoringWitness .inc ∧ StoringWitness .dec :=
  ⟨storingWitness _ fun _ => rfl, storingWitness _ fun _ => rfl⟩
theorem witness_ShiftsAndRotates :
    StoringWitness .asl ∧ StoringWitness .lsr ∧ StoringWitness .rol ∧ StoringWitness .ror :=
  ⟨storingWitness _ fun _ => rfl, storingWitness _ fun _ => rfl, storingWitness _ fun _ => rfl,
    storingWitness _ fun _ => rfl⟩

theorem witness_StoresToTheDmaPort :
    (StoringWitness .sta ∧ StoringWitness .stx ∧ StoringWitness .sty) ∧ (StoringWitness .inc ∧ StoringWitness .dec) ∧
    (StoringWitness .asl ∧ StoringWitness .lsr ∧ StoringWitness .rol ∧ StoringWitness .ror) :=
  ⟨witness_StoresWriteTheRegister, witness_IncrementsAndDecrementsOfMemory, witness_ShiftsAndRotates⟩

/-- Both ports, a reading and a storing instruction, through a mirror too. -/
theorem witness_AccessesRefusedWhileRendering :
    (AtPort 7 0x2007 ∧ AtPort 7 0x3FFF ∧ AtPort 4 0x2004) ∧ (Rendering drawing ∧ Rendering preRender) ∧
    (Instr.lda (.abs 0x2007)).wellFormed = true ∧ (Instr.sta (.abs 0x2004)).wellFormed = true ∧
    (Instr.inc (.abs 0x3FFF)).wellFormed = true ∧
    effective (.abs 0x2007) drawing = .next (⟨0x2007, false⟩, drawing) ∧
    (drawing.params.decimalEnabled = false ∨ drawing.cpu.p.d = false) :=
  ⟨by decide, by decide, rfl, rfl, rfl, rfl, .inl rfl⟩

theorem witness_DecodeOfEncodeIsTheInstruction :
    (Instr.lda (.abx 0xFFFF)).wellFormed = true ∧ (Instr.bne 0x80).wellFormed = true ∧ Instr.brk.wellFormed = true ∧
    (Instr.undefinedOpcode 0xFF).wellFormed = true := by decide
theorem witness_EncodeOfDecodeIsTheBytes :
    decode [0x20, 0x34, 0x12, 0x99] = .ok (.jsr 0x1234, [0x99]) ∧
    decode [0x02, 0x34] = .ok (.undefinedOpcode 0x02, [0x34]) := ⟨rfl, rfl⟩
theorem witness_DecodingFailsOnlyForMissingBytes :
    opcodeLength 0xAD = 3 ∧ opcodeLength 0xA9 = 2 ∧ opcodeLength 0xEA = 1 ∧ opcodeLength 0x02 = 1 := by decide
theorem witness_UndefinedOpcodesFault : (0x02 : Byte) ∈ undefinedOpcodes ∧ (0xFF : Byte) ∈ undefinedOpcodes ∧
    (0x00 : Byte) ∉ undefinedOpcodes := by decide

/-- LDA $1234,X across the end of the address space: bytes at 0xFFFE, 0xFFFF and 0x0000. -/
def wrapping : State :=
  { start (fun c => { c with pc := 0xFFFE }) [(0, 0x12)] with
    cart := { Cartridge.blank with prg := [(0x7FFE, 0xBD), (0x7FFF, 0x34)] } }

/-- The second clause: the bytes in the PRG window and, round the end, in the RAM window. -/
theorem witness_StepRunsTheDecodedInstruction :
    AboutToFetch wrapping ∧
    (∀ k, k < (Instr.lda (.abx 0x1234)).length → InRam (plus wrapping.cpu.pc k) ∨ InPrg (plus wrapping.cpu.pc k)) ∧
    decode ((List.range (Instr.lda (.abx 0x1234)).length).map fun k => storedByte (plus wrapping.cpu.pc k) wrapping) =
      .ok (.lda (.abx 0x1234), []) := by
  refine ⟨by decide, ?_, rfl⟩
  intro k hk
  have hk : k < 3 := hk
  rcases k with _ | _ | _ | k
  · right; decide
  · right; decide
  · left; decide
  · omega

/-- With an IRQ asserted and masked: an undefined byte in RAM. -/
theorem witness_StepRunsTheDecodedInstruction_masked :
    let s : State := { start (fun c => { c with pc := 0x1FFF }) [(0x7FF, 0x02)] with irqLine := true }
    AboutToFetch s ∧ InRam (plus s.cpu.pc 0) ∧
    decode ((List.range (Instr.undefinedOpcode 0x02).length).map fun k => storedByte (plus s.cpu.pc k) s) =
      .ok (.undefinedOpcode 0x02, []) := ⟨by decide, by decide, rfl⟩

/-- About to fetch at `pc`, with the byte `readbuf` in the data port's buffer, `oam[0] = 0xEA` and the mask. -/
def fetching (pc : Word) (readbuf mask : Byte) : State :=
  let s := start (fun c => { c with pc := pc }) []
  { s with ppu := { s.ppu with readbuf := readbuf, mask := mask }, mem := { s.mem with oam := [(0, 0xEA)] } }

/-- The first clause: NOP fetched through the OAM-data port. -/
theorem witness_StepRunsTheDecodedInstruction_port :
    let s := fetching 0x2004 0x00 0x00
    AboutToFetch s ∧ decode [0xEA] = .ok (.nop, []) ∧ FetchReads [0xEA] s.cpu.pc s s :=
  ⟨by decide, rfl, _, rfl, rfl⟩

/-- The third clause: an opcode through the data port at 0x3FFF, its operand in the hole; an opcode in the hole; an opcode at
the data port while rendering. -/
theorem witness_StepRunsTheDecodedInstruction_stops :
    (AboutToFetch (fetching 0x3FFF 0xA5 0x00) ∧ (∀ r, decode [0xA5] ≠ .ok r) ∧
      ∃ t, FetchReads [0xA5] 0x3FFF (fetching 0x3FFF 0xA5 0x00) t ∧ Unmapped (plus 0x3FFF 1) t) ∧
    (AboutToFetch (fetching 0x4015 0x00 0x00) ∧ (∀ r, decode [] ≠ .ok r) ∧
      Unmapped (plus 0x4015 0) (fetching 0x4015 0x00 0x00)) ∧
    (AboutToFetch (fetching 0x2007 0x00 0x08) ∧ AtPort 7 (plus 0x2007 0) ∧ Rendering (fetching 0x2007 0x00 0x08)) :=
  ⟨⟨by decide, nofun, _, ⟨_, rfl, rfl⟩, by decide⟩, ⟨by decide, nofun, by decide⟩, by decide, by decide, by decide⟩

theorem witness_StoringFormsChangeOnlyTheStoredByte :
    (Instr.sta (.abs 0x1FFF) ∈ [Instr.sta (.abs 0x1FFF), .stx (.abs 0x1FFF)] ∧ Operand.abs 0x1FFF ≠ .acc ∧ InRam 0x1FFF ∧
      ∃ t, exec (.sta (.abs 0x1FFF)) idle = .next t) ∧
    (¬AtPort 7 0x2004 ∧ ¬AtPort 4 0x2007 ∧ ∃ t, exec (.inc (.abs 0x2004)) idle = .next t) ∧
    (¬InPorts 0x8000 ∧ (0x8000 : Word) ≠ 0x4014 ∧ ∃ t, exec (.ror (.abs 0x8000)) idle = .next t) ∧
    (InHole 0x4000 ∧ effective (.abs 0x4000) holeOfRam = .next (⟨0x4000, false⟩, holeOfRam) ∧
      ∃ t, exec (.sta (.abs 0x4000)) holeOfRam = .next t) ∧
    (InHole 0x7FFF ∧ ∃ t, exec (.inc (.abs 0x7FFF)) holeOfRam = .next t) :=
  ⟨⟨by decide, nofun, by decide, _, rfl⟩, ⟨by decide, by decide, _, rfl⟩, ⟨by decide, by decide, _, rfl⟩,
    ⟨by decide, rfl, _, rfl⟩, by decide, _, rfl⟩

theorem witness_OtherFormsChangeNoByte :
    (storesOrPushes (.lda (.abs 0x2007)) = false ∧ ∃ t, exec (.lda (.abs 0x2007)) idle = .next t) ∧
    (storesOrPushes (.asl .acc) = false ∧ ∃ t, exec (.asl .acc) idle = .next t) :=
  ⟨⟨rfl, _, rfl⟩, rfl, _, rfl⟩

theorem witness_PullsUndoPushes :
    ∃ t, exec .pha idle = .next t ∧ t.cpu.sp = t.cpu.sp ∧
      t.mem.ramByte (stackIndex idle 0) = t.mem.ramByte (stackIndex idle 0) ∧ t.cpu.p.b = idle.cpu.p.b :=
  ⟨_, rfl, rfl, rfl, rfl⟩

theorem witness_DecimalFlagHasNoEffect :
    (∃ o, Instr.adc (.imm 0x99) = .adc o ∨ Instr.adc (.imm 0x99) = .sbc o) ∧ idle.params.decimalEnabled = false :=
  ⟨⟨_, .inl rfl⟩, rfl⟩

/-- The clauses of JMP: both pointer bytes readable; each in the hole; each at the data port while rendering. -/
theorem witness_JumpsGoToTheirTarget :
    (Readable 0x1FFF idle ∧ Readable 0x1F00 idle) ∧ (Readable 0xFFFF idle ∧ Readable 0xFF00 idle) ∧
    (Unmapped 0x4000 idle ∧ Unmapped 0x7FFF idle) ∧ (Readable 0x4014 idle ∧ Unmapped 0x4015 idle) ∧
    (AtPort 7 0x2007 ∧ Rendering drawing) ∧ (Readable 0x2006 drawing ∧ AtPort 7 0x2007) ∧
    ([0x1FFF, 0xFFFF, 0x4014, 0x2006] : List Nat).map (fun w => w / 256 * 256 + (w + 1) % 256) =
      [0x1F00, 0xFF00, 0x4015, 0x2007] ∧
    [0x1FFF, 0xFFFF].map (fun w => plus w 1) = [0x2000, 0x0000] ∧ Readable 0x2000 idle := by
  refine ⟨by decide, by decide, by decide, by decide, by decide, by decide, by decide, by decide, by decide⟩

theorem witness_ReturnsUndoCallsAndBreaks_call :
    ∃ t, exec (.jsr 0x9000) idle = .next t ∧ t.cpu.sp = t.cpu.sp ∧
      t.mem.ramByte (stackIndex idle 0) = t.mem.ramByte (stackIndex idle 0) ∧
      t.mem.ramByte (stackIndex idle 255) = t.mem.ramByte (stackIndex idle 255) := ⟨_, rfl, rfl, rfl, rfl⟩

theorem witness_ReturnsUndoCallsAndBreaks_break :
    ∃ t, exec .brk idle = .next t ∧ t.cpu.sp = t.cpu.sp ∧ t.cpu.p.b = idle.cpu.p.b ∧
      ∀ k, k = 0 ∨ k = 255 ∨ k = 254 → t.mem.ramByte (stackIndex idle k) = t.mem.ramByte (stackIndex idle k) :=
  ⟨_, rfl, rfl, rfl, fun _ _ => rfl⟩

/-- A state with the interrupt inputs and the I flag set as given. -/
def interrupts (nmi irq i : Bool) : State :=
  { start (fun c => { c with nmiPending := nmi, p := { c.p with i := i } }) [] with irqLine := irq }

theorem witness_InterruptPriority :
    (interrupts true true false).cpu.nmiPending = true ∧
    ((interrupts false true false).cpu.nmiPending = false ∧ (interrupts false true false).irqLine = true ∧
      (interrupts false true false).cpu.p.i = false) ∧
    ((interrupts false true true).cpu.nmiPending = false ∧ (interrupts false true true).cpu.p.i = true) ∧
    ((interrupts false false false).cpu.nmiPending = false ∧ (interrupts false false false).irqLine = false) :=
  ⟨rfl, ⟨rfl, rfl, rfl⟩, ⟨rfl, rfl⟩, rfl, rfl⟩

theorem witness_NmiRequestsLatchAndStay :
    ((interrupts true false true).cpu.nmiPending = true ∧ ∃ t, step (interrupts true false true) = .next t) ∧
    ∃ t, step { interrupts true false true with master := 1 } = .next t := ⟨⟨rfl, _, rfl⟩, _, rfl⟩

theorem witness_OnlyTheListedInstructionsWriteARegister :
    (∃ t, exec .nop idle = .next t) ∧ (∃ t, exec (.lda (.imm 0)) idle = .next t) ∧
    writesA .nop = false ∧ writesX .nop = false ∧ writesY .nop = false ∧ writesSp .nop = false ∧ writesC .nop = false ∧
    writesZN .nop = false ∧ writesV .nop = false ∧ writesD .nop = false ∧ writesI .nop = false :=
  ⟨⟨_, rfl⟩, ⟨_, rfl⟩, rfl, rfl, rfl, rfl, rfl, rfl, rfl, rfl, rfl⟩

theorem witness_WhatNoStepChanges :
    (∃ t, step State.reset = .next t) ∧ ∃ t, step { State.reset with master := 1 } = .next t := ⟨⟨_, rfl⟩, _, rfl⟩

theorem witness_CpuBusMap :
    (InRam 0x0000 ∧ InRam 0x1FFF) ∧ (InPorts 0x2000 ∧ InPorts 0x3FFF) ∧ (Unmapped 0x4000 idle ∧ Unmapped 0x7FFF idle) ∧
    (InHole 0x4000 ∧ InHole 0x7FFF ∧ holeOfRam.params.holePolicy = .ram) ∧ (InPrg 0x8000 ∧ InPrg 0xFFFF) := by decide
theorem witness_RamMirrors : InRam 0x0000 ∧ InRam 0x1FFF ∧ InRam 0x0800 ∧ InRam 0x1800 := by decide

/-- The three windows of the PPU bus at their boundary values. -/
theorem witness_PpuBusReadsBackWrites :
    (0x1FFF#14).toNat < 0x2000 ∧ (0x2000 ≤ (0x2000#14).toNat ∧ (0x2000#14).toNat < 0x3F00) ∧
    (0x2000 ≤ (0x3EFF#14).toNat ∧ (0x3EFF#14).toNat < 0x3F00) ∧ 0x3F00 ≤ (0x3F00#14).toNat ∧
    0x3F00 ≤ (0x3FFF#14).toNat := by decide

theorem witness_PortReads :
    ([0, 1, 3, 5, 6] : List (BitVec 3)).all (fun p => decide (p ∉ [2, 4, 7])) = true ∧ ¬Rendering idle ∧
    Rendering drawing ∧ ¬Rendering belowPicture ∧
    ([0x3EFF, 0x7EFF] : List Nat).all (fun v => decide ((BitVec.ofNat 14 (v % 0x4000)).toNat ≤ 0x3EFF)) = true ∧
    ([0x3F00, 0x7FFF] : List Nat).all (fun v => decide (0x3F00 ≤ (BitVec.ofNat 14 (v % 0x4000)).toNat)) = true := by
  decide
theorem witness_PortWrites : ¬Rendering idle ∧ Rendering drawing ∧ Rendering preRender := by decide
theorem witness_ScrollAndAddressLatches :
    idle.ppu.w = false ∧ { idle with ppu := { idle.ppu with w := true } }.ppu.w = true := ⟨rfl, rfl⟩

theorem witness_OamDmaCopiesAPage :
    Rendering drawing ∧ ¬Rendering idle ∧ ((0x00 : Byte).toNat ≤ 0x1F ∧ (0x1F : Byte).toNat ≤ 0x1F) ∧
    (0x80 ≤ (0x80 : Byte).toNat ∧ 0x80 ≤ (0xFF : Byte).toNat) ∧
    (0x20 ≤ (0x20 : Byte).toNat ∧ (0x3F : Byte).toNat ≤ 0x3F) ∧
    (idle.params.holePolicy = .fault ∧ 0x40 ≤ (0x40 : Byte).toNat ∧ (0x7F : Byte).toNat ≤ 0x7F) ∧
    (¬Rendering holeOfRam ∧ holeOfRam.params.holePolicy = .ram ∧ (0x40 : Byte).toNat = 0x40 ∧
      0x41 ≤ (0x41 : Byte).toNat ∧ 0x41 ≤ (0x7F : Byte).toNat) := by decide

theorem witness_MasterTickOrder :
    (State.reset.halted = .running ∧ State.reset.params.admitted = true) ∧
    { State.reset with master := 2 }.master % State.reset.params.ppuPerCpu ≠ 0 ∧
    (State.reset.master % State.reset.params.ppuPerCpu = 0 ∧ 0 < State.reset.cpu.stall) ∧
    ((start (fun c => c) []).master % 3 = 0 ∧ (start (fun c => c) []).cpu.stall = 0) ∧
    (∀ f ∈ [fun k : Params => { k with ppuPerCpu := 0 }, fun k => { k with vecIrq := 0xFFFF },
        fun k => { k with vecNmi := 0x7FFF }, fun k => { k with linesPerFrame := 0 }, fun k => { k with dotsPerLine := 0 }],
      (withParams f State.reset).halted = .running ∧ (withParams f State.reset).params.admitted = false) ∧
    (withParams (fun k => { k with vecReset := 0xFFFE, ppuPerCpu := 1 }) State.reset).params.admitted = true := by decide

/-- About to run the PRG image's bytes from 0x8000 on, in an otherwise blank cartridge. -/
def program (prg : List Host.Cell) : State := { start (fun c => c) [] with cart := { Cartridge.blank with prg := prg } }

/-- NOP at 0x8000. -/
def nopNext : State := program [(0, 0xEA)]

/-- `JMP $8000` at 0x8000. -/
def selfJump : State := program [(0, 0x4C), (2, 0x80)]

/-- Power-on with NOP at 0x8000, `JMP $8001` after it, and the reset vector at 0x8000. -/
def powered : State :=
  State.powerOn Params.spec
    { Cartridge.blank with prg := [(0, 0xEA), (1, 0x4C), (2, 0x01), (3, 0x80), (0x7FFD, 0x80)] }

/-- The first clause: a CPU step that goes on, one that faults, one that is refused. -/
theorem witness_CoarseStepIsTheRunOfTicks :
    let cpuStepOf (s : State) : Result State := cpuStep { s with cpu := { s.cpu with cyc := s.cpu.cyc + 1 } }
    (AtBoundary nopNext ∧ ∃ t, cpuStepOf nopNext = .next t) ∧
    (AtBoundary (program [(0, 0x02)]) ∧ ∃ f, cpuStepOf (program [(0, 0x02)]) = .fault f) ∧
    (AtBoundary (fetching 0x2007 0x00 0x08) ∧ ∃ r, cpuStepOf (fetching 0x2007 0x00 0x08) = .refused r) :=
  ⟨⟨by decide, _, rfl⟩, ⟨by decide, _, rfl⟩, by decide, _, rfl⟩

/-- The second clause, off the boundary by the stall cycles of the reset, by a tick, and at a boundary; the third; the last,
for no step, and for one, where only the state at hand is asked for its NMI. -/
theorem witness_CoarseStepIsTheRunOfTicks_runs :
    (powered.halted = .running ∧ powered.params.admitted = true ∧ ¬AtBoundary powered) ∧
    ¬AtBoundary { nopNext with master := 1 } ∧ AtBoundary nopNext ∧
    (∃ t, runSteps 1 nopNext = .next t) ∧
    (AboutToFetch selfJump ∧ AtSelfJump selfJump ∧
      ∀ n, n ≤ 1 → ∀ m u, m < n → runSteps m selfJump = .next u → u.cpu.nmiPending = false) := by
  refine ⟨by decide, by decide, by decide, ⟨_, rfl⟩, by decide, by decide, fun n hn m u hm h => ?_⟩
  obtain rfl : m = 0 := by omega
  cases h
  rfl

/-- R481, R405: the first CPU step after power-on, NOP of 2 cycles, after the 7 cycles of the reset; 3 dots a cycle. -/
theorem test_run_from_reset :
    after (runSteps 1 powered) (fun t => (t.cpu.cyc, t.master, t.cpu.pc)) = some (9, 27, 0x8001) := by decide

/-- R481: the run is over at the first boundary at which PC is the address of the self-jump. -/
theorem test_run_to_self_jump :
    after (runToSelfJump 0x8001 5 powered) (fun o => o.map fun t => (t.cpu.cyc, t.cpu.pc)) =
      some (some (9, 0x8001)) := by decide

theorem witness_FaultsHaltTheMachine :
    let s : State := { start (fun c => c) [] with cart := { Cartridge.blank with prg := [(0, 0x02)] } }
    (s.halted = .running ∧ step s = .fault (.configurationError (some 0x02) 0x8000)) ∧
    (State.powerOn Params.spec { Cartridge.blank with mapperId := 4 }).halted = .faulted (.unsupportedMapper 4) := ⟨⟨rfl, rfl⟩, rfl⟩

theorem witness_CycleCountsAreBounded :
    (idle.params.cyc = Params.spec.cyc ∧ idle.params.dmaBaseCycles = 513 ∧ idle.params.intCycles = 7) ∧
    (∃ t, exec .nop idle = .next t) ∧ (∃ t, nmiEntry idle = .next t) ∧ ∃ t, irqEntry idle = .next t :=
  ⟨⟨rfl, rfl, rfl⟩, ⟨_, rfl⟩, ⟨_, rfl⟩, _, rfl⟩

theorem witness_ResetValues :
    Cartridge.blank.admitted = true ∧ { Cartridge.blank with prgSize := 0x4000 }.admitted = true ∧
    { Cartridge.blank with prgSize := 0x2000 }.admitted = false ∧ { Cartridge.blank with mapperId := 1 }.admitted = false ∧
    { Cartridge.blank with chrSize := 0 }.admitted = false ∧ 
    State.reset.cart = Cartridge.blank ∧ State.reset.params = Params.spec := by decide

/-- A state at a scanline and a dot, with a mask. -/
def at_ (scanline dot : Nat) (mask : Byte) : State :=
  { State.reset with ppu := { State.reset.ppu with scanline := scanline, dot := dot, mask := mask } }

theorem witness_DotWritesOnlyThePpu : (interrupts true false true).cpu.nmiPending = true := rfl
/-- Both edges, another dot, an edge moved into the picture, and both edges at one dot. -/
theorem witness_VblankEdges :
    let sets (s : State) : Prop := s.params.vblSet = (s.ppu.scanline, s.ppu.dot)
    let clears (s : State) : Prop := s.params.vblClear = (s.ppu.scanline, s.ppu.dot)
    (sets (at_ 241 1 0) ∧ ¬clears (at_ 241 1 0)) ∧
    (clears (at_ 261 1 0) ∧ ¬sets (at_ 261 1 0) ∧ 239 < (at_ 261 1 0).ppu.scanline) ∧
    (¬sets (at_ 241 2 0) ∧ ¬clears (at_ 241 2 0)) ∧
    clears (withParams (fun k => { k with vblClear := (0, 5) }) (at_ 0 5 0)) ∧
    (let both := withParams (fun k => { k with vblClear := (241, 1) }) (at_ 241 1 0); sets both ∧ clears both) ∧
    { at_ 0 0 0 with ppu := { (at_ 0 0 0).ppu with s0hit := true, overflow := true } }.ppu.s0hit = true := by decide
theorem witness_FrameLengths :
    (State.reset.ppu.scanline = 0 ∧ State.reset.ppu.dot = 0 ∧ State.reset.ppu.odd = false) ∧
    { State.reset.ppu with odd := true }.odd = true ∧
    (State.reset.params.preRenderLine + 1 = State.reset.params.linesPerFrame ∧ 2 ≤ State.reset.params.dotsPerLine) ∧
    (let k := { Params.spec with preRenderLine := 0, linesPerFrame := 1, dotsPerLine := 2, oddSkipRequiresRendering := true }
     k.preRenderLine + 1 = k.linesPerFrame ∧ 2 ≤ k.dotsPerLine) := by decide

/-- The dots of the scroll updates at the boundary values of their ranges. -/
theorem witness_ScrollMotion :
    (∀ d ∈ [8, 248, 328, 336], Rendering (at_ 239 d 0x08) ∧ ((1 ≤ d ∧ d ≤ 256) ∨ (321 ≤ d ∧ d ≤ 336)) ∧ d % 8 = 0 ∧
      d ≠ 256) ∧
    (Rendering (at_ 0 256 0x10) ∧ (at_ 0 256 0x10).ppu.dot = 256) ∧
    (Rendering (at_ 0 257 0x10) ∧ (at_ 0 257 0x10).ppu.dot = 257) ∧
    (∀ d ∈ [280, 304], Rendering (at_ 261 d 0x18) ∧
      (at_ 261 d 0x18).ppu.scanline = (at_ 261 d 0x18).params.preRenderLine ∧ 280 ≤ d ∧ d ≤ 304) ∧
    (∀ d ∈ [0, 1, 279, 305, 320, 340], Rendering (at_ 261 d 0x18) ∧
      ¬(((1 ≤ d ∧ d ≤ 256) ∨ (321 ≤ d ∧ d ≤ 336)) ∧ d % 8 = 0) ∧ d ≠ 257 ∧ ¬(280 ≤ d ∧ d ≤ 304)) ∧
    ¬Rendering (at_ 240 8 0x18) ∧ ¬Rendering (at_ 0 8 0x00) := by decide

/-- The dots of the background fetcher at the boundary values of their ranges, by phase, and of the shifters; an idle dot, an
idle line, rendering off. -/
theorem witness_BackgroundFetchAddresses :
    (∀ d ∈ [1, 249, 321, 329], Rendering (at_ 0 d 0x08) ∧ ((1 ≤ d ∧ d ≤ 256) ∨ (321 ≤ d ∧ d ≤ 336)) ∧ (d - 1) % 8 = 0) ∧
    (∀ d ∈ [3, 251, 323, 331], Rendering (at_ 239 d 0x10) ∧ ((1 ≤ d ∧ d ≤ 256) ∨ (321 ≤ d ∧ d ≤ 336)) ∧ (d - 1) % 8 = 2) ∧
    (∀ d ∈ [5, 253, 325, 333], Rendering (at_ 261 d 0x08) ∧ ((1 ≤ d ∧ d ≤ 256) ∨ (321 ≤ d ∧ d ≤ 336)) ∧ (d - 1) % 8 = 4) ∧
    (∀ d ∈ [7, 255, 327, 335], Rendering (at_ 0 d 0x08) ∧ ((1 ≤ d ∧ d ≤ 256) ∨ (321 ≤ d ∧ d ≤ 336)) ∧ (d - 1) % 8 = 6) := by
  refine ⟨by decide, by decide, by decide, by decide⟩
theorem witness_BackgroundFetchAddresses_shifters :
    (∀ d ∈ [9, 257, 329, 337], Rendering (at_ 0 d 0x08) ∧ ((2 ≤ d ∧ d ≤ 257) ∨ (322 ≤ d ∧ d ≤ 337)) ∧ d % 8 = 1) ∧
    (∀ d ∈ [2, 256, 322, 336], Rendering (at_ 0 d 0x08) ∧ ((2 ≤ d ∧ d ≤ 257) ∨ (322 ≤ d ∧ d ≤ 337)) ∧ d % 8 ≠ 1) ∧
    (∀ d ∈ [0, 1, 258, 321, 338], ¬((2 ≤ d ∧ d ≤ 257) ∨ (322 ≤ d ∧ d ≤ 337))) ∧
    ¬Rendering (at_ 240 9 0x18) ∧ ¬Rendering (at_ 0 9 0x00) := by
  refine ⟨by decide, by decide, by decide, by decide, by decide⟩

/-- The dots of the sprite work on a visible line, and the pre-render line. -/
theorem witness_sprite_dots :
    (∀ d ∈ [64, 256, 320], VisibleWork (at_ 0 d 0x10) ∧ VisibleWork (at_ 239 d 0x08)) ∧
    (Rendering (at_ 261 320 0x10) ∧ ¬VisibleWork (at_ 261 320 0x10) ∧
      (at_ 261 320 0x10).ppu.scanline = (at_ 261 320 0x10).params.preRenderLine) ∧
    (VisibleWork (at_ 0 65 0x10) ∧ ¬VisibleWork (at_ 240 64 0x10) ∧ ¬VisibleWork (at_ 0 64 0x06)) := by decide

/-- The OAM entries whose Y byte is in range on line 0: entry 0 with Y 0, all others at Y 0xFF; and none. -/
theorem witness_SpriteEvaluation :
    let oam (y : Byte) : Memory := { Memory.blank with oam := (0, y) :: (List.range 63).map fun i => (4 * i + 4, 0xFF) }
    let hits (m : Memory) : List Nat := (List.range 64).filter fun i =>
      decide ((m.oamByte (4 * i)).toNat ≤ 0 ∧ 0 - (m.oamByte (4 * i)).toNat < 8)
    State.reset.ppu.secCount = 0 ∧ hits (oam 0x00) = [0] ∧ hits (oam 0xFF) = [] := by decide

/-- A sprite of the line with an opaque pixel at column 8, behind one that is transparent there. -/
theorem witness_LowestOpaqueSpriteWins :
    let q : LineSprite := { lo := 0x80, hi := 0x00, attr := 0x00, xpos := 8 }
    let p : Ppu :=
      { State.reset.ppu with
        mask := 0x10, lineCount := 2, line := State.reset.ppu.line.set 0 { q with lo := 0x00 } |>.set 1 q }
    p.spriteAt 8 = some (1, q) := by decide

/-- Both branches of the output: the last pixel of the picture, and a dot after it. -/
theorem witness_PixelOutput :
    ((at_ 239 256 0x1E).ppu.scanline ≤ 239 ∧ 1 ≤ (at_ 239 256 0x1E).ppu.dot ∧ (at_ 239 256 0x1E).ppu.dot ≤ 256) ∧
    ¬((at_ 239 257 0x1E).ppu.dot ≤ 256) := by decide

theorem witness_ResetMeetsTheInvariant :
    Params.spec.admitted = true ∧ Cartridge.blank.wf = true ∧ Safety.Inv (at_ 261 340 0x18) := by decide
theorem witness_EveryStepKeepsTheInvariant : Safety.Inv State.reset ∧ ∃ t, step State.reset = .next t :=
  ⟨by decide, _, rfl⟩

end Sys2Proof.Tests
end

section
/-! SUPPORT. What no step changes (O37): the part of the state an instruction leaves as it was, one lemma per shape, and from
these the instruction, the CPU step and the master tick. -/

namespace Sys2Proof.Machine

/-- The part of the state no instruction and no interrupt entry changes: the cartridge (R9), the parameters (R7), the break
flag (R32, D4), the orchestrator's state (R39, R54), the input `IRQ_LINE` (R40) and the cycle counter, which the CPU cycle
around them counts (R402). -/
structure FixedPart where
  cart : Cartridge
  params : Params
  b : Bool
  halted : Halted
  irqLine : Bool
  master : Nat
  cyc : Nat

/-- The fixed part of a state. -/
def State.fixedPart (s : State) : FixedPart :=
  { cart := s.cart, params := s.params, b := s.cpu.p.b, halted := s.halted, irqLine := s.irqLine, master := s.master,
    cyc := s.cpu.cyc }

/-! ### The bus and the end of an instruction -/

/-- A bus access leaves the fixed part. -/
theorem BusFrame.fixedPart {s t : State} (f : BusFrame s t) : t.fixedPart = s.fixedPart := by
  simp only [State.fixedPart, f.cart, f.params, f.halted, f.irqLine, f.master]
  rw [f.cpu]

@[simp] theorem State.setPc_fixedPart (pc : Word) (s : State) : (s.setPc pc).fixedPart = s.fixedPart := rfl
@[simp] theorem State.setStall_fixedPart (n : Nat) (s : State) : (s.setStall n).fixedPart = s.fixedPart := rfl

theorem finish_fixedPart {pc : Word} {n : Nat} {s t : State} (h : finish pc n s = .next t) :
    t.fixedPart = s.fixedPart := by
  cases h; simp

/-! ### The shapes -/

theorem implied_fixedPart {mn : Mnemonic} {f : State → State} {s t : State} (h : implied mn f s = .next t)
    (hf : ∀ u, (f u).fixedPart = u.fixedPart) : t.fixedPart = s.fixedPart := by
  obtain ⟨e, -, rfl⟩ := implied_eq_next.mp h
  simp [hf]

theorem reading_fixedPart {mn : Mnemonic} {o : Operand} {f : Byte → State → State} {s t : State}
    (h : reading mn o f s = .next t) (hf : ∀ m u, (f m u).fixedPart = u.fixedPart) : t.fixedPart = s.fixedPart := by
  obtain ⟨e, m, -, hm, rfl⟩ := reading_eq_next.mp h
  simp [hf, (readOperand_frame hm).1.fixedPart]

theorem storing_fixedPart {mn : Mnemonic} {o : Operand} {v : Byte} {s t : State} (h : storing mn o v s = .next t) :
    t.fixedPart = s.fixedPart := by
  obtain ⟨e, a, u, -, ha, hu, rfl⟩ := storing_eq_next.mp h
  simp [((effective_frame ha).1.trans (memWrite_frame hu)).fixedPart]

theorem modifying_fixedPart {mn : Mnemonic} {o : Operand} {r : Byte → Byte} {f : Byte → State → State} {s t : State}
    (h : modifying mn o r f s = .next t) (hf : ∀ m u, (f m u).fixedPart = u.fixedPart) :
    t.fixedPart = s.fixedPart := by
  obtain ⟨e, a, m, u, -, ha, hm, hu, rfl⟩ := modifying_eq_next.mp h
  simp [hf, (((effective_frame ha).1.trans (memRead_frame hm)).trans (memWrite_frame hu)).fixedPart]

theorem shifting_fixedPart {mn : Mnemonic} {o : Operand} {sh : Byte → ShiftResult} {s t : State}
    (h : shifting mn o sh s = .next t) : t.fixedPart = s.fixedPart := by
  by_cases ho : o = .acc
  · rw [ho, shifting_acc] at h
    obtain ⟨e, -, h⟩ := withEntry_eq_next.mp h
    exact (finish_fixedPart h).trans rfl
  · rw [shifting_mem ho] at h
    exact modifying_fixedPart h fun _ _ => rfl

theorem binary_reading_fixedPart {mn : Mnemonic} {o : Operand} {f : Byte → State → State} {s t : State}
    (h : binary s (reading mn o f s) = .next t) (hf : ∀ m u, (f m u).fixedPart = u.fixedPart) :
    t.fixedPart = s.fixedPart :=
  reading_fixedPart (binary_eq_next.mp h).2 hf

theorem branching_fixedPart {mn : Mnemonic} {cond : Bool} {offset : Byte} {s t : State}
    (h : branching mn cond offset s = .next t) : t.fixedPart = s.fixedPart := by
  obtain ⟨e, he, -⟩ := withEntry_eq_next.mp h
  rw [branching_some he] at h
  cases h
  split <;> simp

theorem enterInterrupt_fixedPart {ret : Word} {status : Byte} {vector : Word} {n : Nat} {s t : State}
    (h : enterInterrupt ret status vector n s = .next t) : t.fixedPart = s.fixedPart := by
  rw [enterInterrupt_eq] at h
  cases h; rfl

theorem returnFromInterrupt_fixedPart {n : Nat} {s t : State} (h : returnFromInterrupt n s = .next t) :
    t.fixedPart = s.fixedPart := by
  rw [returnFromInterrupt_eq] at h
  cases h; rfl

/-! ### The instruction -/

theorem execJmp_fixedPart {o : Operand} {s t : State} (h : execJmp o s = .next t) : t.fixedPart = s.fixedPart := by
  obtain ⟨e, -, h⟩ := withEntry_eq_next.mp h
  obtain ⟨a, ha, h⟩ := andThen_eq_next.mp h
  exact (finish_fixedPart h).trans (effective_frame ha).1.fixedPart

theorem execJsr_fixedPart {target : Word} {s t : State} (h : execJsr target s = .next t) :
    t.fixedPart = s.fixedPart := by
  obtain ⟨e, -, h⟩ := withEntry_eq_next.mp h
  exact (finish_fixedPart h).trans rfl

theorem execRts_fixedPart {s t : State} (h : execRts s = .next t) : t.fixedPart = s.fixedPart := by
  obtain ⟨e, -, h⟩ := withEntry_eq_next.mp h
  exact (finish_fixedPart h).trans rfl

theorem execBrk_fixedPart {s t : State} (h : execBrk s = .next t) : t.fixedPart = s.fixedPart := by
  obtain ⟨e, -, h⟩ := withEntry_eq_next.mp h
  exact enterInterrupt_fixedPart h

theorem execRti_fixedPart {s t : State} (h : execRti s = .next t) : t.fixedPart = s.fixedPart := by
  obtain ⟨e, -, h⟩ := withEntry_eq_next.mp h
  exact returnFromInterrupt_fixedPart h

/-- An instruction that goes on leaves the fixed part: each has one of the shapes, with a change of registers, flags and
arrays only, or is a jump, a call, a return or BRK. -/
theorem exec_fixedPart {i : Instr} {s t : State} (h : exec i s = .next t) : t.fixedPart = s.fixedPart := by
  cases i with
  | lda | ldx | ldy | cmp | cpx | cpy | and | ora | eor | bit =>
    simp only [exec, execLda, execLdx, execLdy, execCmp, execCpx, execCpy, execAnd, execOra, execEor, execBit] at h
    exact reading_fixedPart h fun _ _ => rfl
  | adc | sbc =>
    simp only [exec, execAdc, execSbc] at h
    exact binary_reading_fixedPart h fun _ _ => rfl
  | sta | stx | sty =>
    simp only [exec, execSta, execStx, execSty] at h
    exact storing_fixedPart h
  | inc | dec =>
    simp only [exec, execInc, execDec] at h
    exact modifying_fixedPart h fun _ _ => rfl
  | asl | lsr | rol | ror =>
    simp only [exec, execAsl, execLsr, execRol, execRor] at h
    exact shifting_fixedPart h
  | tax | tay | txa | tya | tsx | txs | pha | php | pla | plp | inx | iny | dex | dey
  | clc | sec | cli | sei | cld | sed | clv | nop =>
    simp only [exec, execTax, execTay, execTxa, execTya, execTsx, execTxs, execPha, execPhp, execPla, execPlp,
      execInx, execIny, execDex, execDey, execClc, execSec, execCli, execSei, execCld, execSed, execClv, execNop] at h
    exact implied_fixedPart h fun _ => rfl
  | bcc | bcs | beq | bne | bmi | bpl | bvc | bvs =>
    simp only [exec, execBcc, execBcs, execBeq, execBne, execBmi, execBpl, execBvc, execBvs] at h
    exact branching_fixedPart h
  | jmp => exact execJmp_fixedPart h
  | jsr => exact execJsr_fixedPart h
  | rts => exact execRts_fixedPart h
  | brk => exact execBrk_fixedPart h
  | rti => exact execRti_fixedPart h
  | undefinedOpcode => cases h

/-! ### The CPU step, the CPU cycle and the master tick -/

theorem nmiEntry_fixedPart {s t : State} (h : nmiEntry s = .next t) : t.fixedPart = s.fixedPart := by
  unfold nmiEntry at h
  exact (enterInterrupt_fixedPart h).trans rfl

theorem irqEntry_fixedPart {s t : State} (h : irqEntry s = .next t) : t.fixedPart = s.fixedPart := by
  unfold irqEntry at h
  exact enterInterrupt_fixedPart h

theorem cpuStep_fixedPart {s t : State} (h : cpuStep s = .next t) : t.fixedPart = s.fixedPart := by
  obtain ⟨-, h⟩ | ⟨-, -, -, h⟩ | ⟨-, -, r, hr, h⟩ := cpuStep_cases h
  · exact nmiEntry_fixedPart h
  · exact irqEntry_fixedPart h
  · exact (exec_fixedPart h).trans (fetch_frame hr).1.fixedPart

/-- A CPU cycle that goes on changes the fixed part in the cycle counter only (R402). -/
theorem cpuCycle_fixedPart {s t : State} (h : cpuCycle s = .next t) :
    t.fixedPart = { s.fixedPart with cyc := s.cpu.cyc + 1 } := by
  obtain ⟨-, rfl⟩ | ⟨-, h⟩ := cpuCycle_cases h
  · rfl
  · exact cpuStep_fixedPart h

/-- The end of a tick changes the fixed part in the master counter only (R401). -/
theorem endTick_fixedPart (s : State) : (endTick s).fixedPart = { s.fixedPart with master := s.master + 1 } := by
  simp [State.fixedPart]

/-- A step that goes on counts one master tick and, on a CPU tick, one CPU cycle (R401, R402); the rest of the fixed part
stays. -/
theorem step_fixedPart {s t : State} (h : step s = .next t) :
    t.fixedPart = { s.fixedPart with
      master := s.master + 1, cyc := s.cpu.cyc + if s.master % s.params.ppuPerCpu = 0 then 1 else 0 } := by
  obtain ⟨-, -, ⟨hc, u, hu, rfl⟩ | ⟨hc, rfl⟩⟩ := step_cases h
  · have hu := cpuCycle_fixedPart hu
    have hmaster : u.master = s.master := congrArg FixedPart.master hu
    rw [endTick_fixedPart, hu, hmaster, if_pos (beq_iff_eq.mp hc)]
  · rw [endTick_fixedPart, if_neg (by simpa [isCpuTick] using hc)]
    rfl

end Sys2Proof.Machine

namespace Sys2Proof.Spec

open Sys2Proof.Machine

/-- Settles O37: the fixed part of the state through one step, field by field. -/
theorem whatNoStepChanges : Obligations.WhatNoStepChanges := by
  intro s t h
  have hrunning := (step_cases h).1
  have hfixed := step_fixedPart h
  simp only [State.fixedPart, FixedPart.mk.injEq] at hfixed
  obtain ⟨hcart, hparams, hb, hhalted, hirq, hmaster, hcyc⟩ := hfixed
  exact ⟨hcart, hparams, hb, hirq, hrunning, hhalted.trans hrunning, hmaster, hcyc⟩

end Sys2Proof.Spec
end

section
/-! SUPPORT. The state at power-on and after a later reset (O49): the admitted cartridges, the vector as a number, and what
the reset procedure answers. -/

namespace Sys2Proof.Machine

open Sys2Proof.Spec

/-- The admitted cartridges (R9, D22, D23). -/
theorem Cartridge.admitted_iff (c : Cartridge) :
    c.admitted = true ↔ c.mapperId = 0 ∧ (c.prgSize = 0x4000 ∨ c.prgSize = 0x8000) ∧ c.chrSize = 0x2000 := by
  simp [Cartridge.admitted, and_assoc]

/-- `{hi, lo}` on numbers (R10). -/
theorem joinBytes_eq_ofNat (hi lo : Byte) : joinBytes hi lo = BitVec.ofNat 16 (hi.toNat * 256 + lo.toNat) := by
  apply BitVec.eq_of_toNat_eq
  have hhi : hi.toNat < 256 := hi.isLt
  have hlo : lo.toNat < 256 := lo.isLt
  simp only [joinBytes, BitVec.toNat_append, BitVec.toNat_ofNat]
  rw [← Nat.shiftLeft_add_eq_or_of_lt hlo, Nat.shiftLeft_eq]
  omega

/-- The vector the machine reads is the one the statements speak of (R12, R79). -/
theorem vector_eq_vectorWord (s : State) (a : Word) : s.cart.vector a = vectorWord s a :=
  joinBytes_eq_ofNat _ _

theorem powerOn_running {c : Cartridge} (k : Params) (h : c.admitted = true) :
    (State.powerOn k c).halted = .running := if_pos h

/-- A cartridge that is not admitted starts the session halted (R446). -/
theorem powerOn_halted {c : Cartridge} (k : Params) (h : c.admitted = false) :
    (State.powerOn k c).halted = .faulted (.unsupportedMapper c.mapperId) := by
  simp [State.powerOn, h]

/-- The CPU at power-on (R57), PC from the reset vector. -/
theorem powerOn_cpu (k : Params) (c : Cartridge) :
    (State.powerOn k c).cpu = Cpu.reset (vectorWord (State.powerOn k c) k.vecReset) k.resetCycles := by
  rw [← vector_eq_vectorWord]; rfl

/-- The status byte at power-on: bit 5 and I (R27, R57). -/
theorem powerOn_pack (k : Params) (c : Cartridge) : (State.powerOn k c).cpu.p.pack = 0x24 := by
  change Flags.reset.pack = 0x24
  decide

/-- A later reset (R471): the machine of power-on with the arrays, the input and the count of draws kept, where the cartridge
is admitted. -/
theorem resetMachine_powerOn (k : Params) (c : Cartridge) (t : State) (hc : t.cart = c) (hk : t.params = k) :
    resetMachine t =
      if c.admitted then { State.powerOn k c with mem := t.mem, irqLine := t.irqLine, draws := t.draws }
      else { t with halted := .faulted (.unsupportedMapper c.mapperId) } := by
  subst hc hk
  rfl

/-- Every byte of both sprite buffers is 0xFF at power-on (R57). -/
theorem powerOn_spriteBuffers (k : Params) (c : Cartridge) (j : Fin 8) :
    (State.powerOn k c).ppu.sec[j] = ⟨0xFF, 0xFF, 0xFF, 0xFF⟩ ∧
      (State.powerOn k c).ppu.line[j] = ⟨0xFF, 0xFF, 0xFF, 0xFF⟩ :=
  ⟨Vector.getElem_replicate j.isLt, Vector.getElem_replicate j.isLt⟩

end Sys2Proof.Machine

namespace Sys2Proof.Spec

open Sys2Proof.Machine

/-- Settles O49: the values of power-on, those of a later reset, and the spec's parameters. -/
theorem resetValues : Obligations.ResetValues := by
  refine ⟨fun k c => ?_, rfl, ?_⟩
  · refine ⟨c.admitted_iff, powerOn_running k, powerOn_halted k, powerOn_cpu k c, powerOn_pack k c, rfl, rfl, rfl, ?_⟩
    exact ⟨⟨rfl, rfl, rfl, rfl⟩, ⟨rfl, rfl, rfl, rfl⟩, ⟨rfl, rfl, rfl, rfl⟩, ⟨rfl, rfl, rfl⟩,
      ⟨rfl, rfl, rfl, rfl, rfl, rfl, rfl, rfl⟩, ⟨rfl, rfl, rfl, rfl⟩, powerOn_spriteBuffers k c,
      resetMachine_powerOn k c⟩
  · exact ⟨⟨rfl, rfl, rfl⟩, ⟨rfl, rfl, rfl⟩, ⟨rfl, rfl, rfl, rfl⟩, ⟨rfl, rfl⟩, ⟨rfl, rfl⟩, rfl, rfl, rfl⟩

end Sys2Proof.Spec
end

section
/-! SUPPORT. What an instruction does beside its bus accesses (O60, O36): which registers and flags it writes, that it leaves the
PPU, and that what it pushes keeps the arrays canonical. From it the registers of 10_state.md and the invariant. -/

namespace Sys2Proof.Machine

open Sys2Proof.Spec

/-- Between two states of the CPU only the registers and flags differ that 10_state.md lists for the instruction (R21 to R24,
R28 to R34). B is in `State.fixedPart`. -/
structure WritesOnlyListed (i : Instr) (c d : Cpu) : Prop where
  a : writesA i = false → d.a = c.a
  x : writesX i = false → d.x = c.x
  y : writesY i = false → d.y = c.y
  sp : writesSp i = false → d.sp = c.sp
  carry : writesC i = false → d.p.c = c.p.c
  zeroNegative : writesZN i = false → d.p.z = c.p.z ∧ d.p.n = c.p.n
  overflow : writesV i = false → d.p.v = c.p.v
  decimal : writesD i = false → d.p.d = c.p.d
  interruptDisable : writesI i = false → d.p.i = c.p.i

/-- What an instruction does beside its bus accesses: it writes the registers listed for it, leaves the PPU, and changes the
arrays by pushes at most. -/
structure InstrFrame (i : Instr) (s t : State) : Prop where
  registers : WritesOnlyListed i s.cpu t.cpu
  ppu : t.ppu = s.ppu
  wf : s.mem.wf = true → t.mem.wf = true

/-- What an instruction that goes on does: bus accesses, then its own work on the state they leave. -/
def BusThenWork (i : Instr) (s t : State) : Prop := ∃ u, BusFrame s u ∧ InstrFrame i u t

section
variable {i : Instr} {s t u : State}

theorem InstrFrame.refl (i : Instr) (s : State) : InstrFrame i s s := by
  constructor
  · constructor <;> simp
  · rfl
  · exact id

/-- PC and the stall count, which every instruction assigns, are in no list. -/
theorem InstrFrame.retire (f : InstrFrame i s u) (pc : Word) (n : Nat) :
    InstrFrame i s ((u.setPc pc).setStall n) := by
  obtain ⟨⟨ha, hx, hy, hsp, hc, hzn, hv, hd, hi⟩, hppu, hwf⟩ := f
  exact ⟨⟨ha, hx, hy, hsp, hc, hzn, hv, hd, hi⟩, hppu, hwf⟩

theorem finish_instrFrame {pc : Word} {n : Nat} (h : finish pc n u = .next t) (f : InstrFrame i s u) :
    InstrFrame i s t := by
  cases h
  exact f.retire pc (n - 1)

/-- Work that is done without the bus. -/
theorem InstrFrame.busThenWork (f : InstrFrame i s t) : BusThenWork i s t := ⟨s, BusFrame.refl s, f⟩

/-! ### The stack -/

theorem wf_push (v : Byte) {s : State} (h : s.mem.wf = true) : (push v s).mem.wf = true :=
  Memory.wf_putRam h (ramIndex_lt _)

/-- A push of an instruction that may write SP. -/
theorem push_instrFrame (hi : writesSp i = true) (v : Byte) (s : State) : InstrFrame i s (push v s) := by
  constructor
  · constructor <;> simp [hi]
  · rfl
  · exact wf_push v

theorem pushWord_instrFrame (hi : writesSp i = true) (w : Word) (s : State) : InstrFrame i s (pushWord w s) := by
  constructor
  · constructor <;> simp [pushWord, hi]
  · rfl
  · exact fun h => wf_push _ (wf_push _ h)

/-- An interrupt entry writes what BRK writes (R440). -/
theorem enterInterrupt_instrFrame {ret : Word} {status : Byte} {vector : Word} {n : Nat}
    (h : enterInterrupt ret status vector n s = .next t) : InstrFrame .brk s t := by
  unfold enterInterrupt at h
  refine finish_instrFrame h ?_
  constructor
  · constructor <;> simp [pushWord, writesSp, writesI]
  · rfl
  · exact fun h => wf_push _ (wf_push _ (wf_push _ h))

/-! ### The shapes -/

theorem implied_work {mn : Mnemonic} {f : State → State} (h : implied mn f s = .next t)
    (hf : InstrFrame i s (f s)) : BusThenWork i s t := by
  obtain ⟨e, -, rfl⟩ := implied_eq_next.mp h
  exact (hf.retire _ _).busThenWork

theorem reading_work {mn : Mnemonic} {o : Operand} {f : Byte → State → State} (h : reading mn o f s = .next t)
    (hf : ∀ m u, InstrFrame i u (f m u)) : BusThenWork i s t := by
  obtain ⟨e, m, -, hm, rfl⟩ := reading_eq_next.mp h
  exact ⟨m.after, (readOperand_frame hm).1, (hf _ _).retire _ _⟩

theorem storing_work {mn : Mnemonic} {o : Operand} {v : Byte} (h : storing mn o v s = .next t) :
    BusThenWork i s t := by
  obtain ⟨e, a, u, -, ha, hu, rfl⟩ := storing_eq_next.mp h
  exact ⟨u, (effective_frame ha).1.trans (memWrite_frame hu), (InstrFrame.refl i u).retire _ _⟩

theorem modifying_work {mn : Mnemonic} {o : Operand} {r : Byte → Byte} {f : Byte → State → State}
    (h : modifying mn o r f s = .next t) (hf : ∀ m u, InstrFrame i u (f m u)) : BusThenWork i s t := by
  obtain ⟨e, a, m, u, -, ha, hm, hu, rfl⟩ := modifying_eq_next.mp h
  exact ⟨u, ((effective_frame ha).1.trans (memRead_frame hm)).trans (memWrite_frame hu), (hf _ _).retire _ _⟩

/-- A shift or rotate writes C, Z and N, and A in its accumulator form alone (R245). -/
theorem shifting_work {mn : Mnemonic} {o : Operand} {sh : Byte → ShiftResult} (h : shifting mn o sh s = .next t)
    (hacc : o = .acc → writesA i = true) (hc : writesC i = true) (hzn : writesZN i = true) : BusThenWork i s t := by
  by_cases ho : o = .acc
  · rw [ho, shifting_acc] at h
    obtain ⟨e, -, h⟩ := withEntry_eq_next.mp h
    refine (finish_instrFrame (s := s) h ⟨?_, rfl, id⟩).busThenWork
    constructor <;> simp [hacc ho, hc, hzn, Flags.afterShift, Flags.setZN]
  · rw [shifting_mem ho] at h
    refine modifying_work h fun m u => ⟨?_, rfl, id⟩
    constructor <;> simp [hc, hzn, Flags.afterShift, Flags.setZN]

theorem branching_work {mn : Mnemonic} {cond : Bool} {offset : Byte} (h : branching mn cond offset s = .next t) :
    BusThenWork i s t := by
  obtain ⟨e, he, -⟩ := withEntry_eq_next.mp h
  rw [branching_some he] at h
  cases h
  split <;> exact ((InstrFrame.refl i s).retire _ _).busThenWork

end

/-! ### The instruction -/

theorem execJmp_work {o : Operand} {s t : State} (h : execJmp o s = .next t) : BusThenWork (.jmp o) s t := by
  obtain ⟨e, -, h⟩ := withEntry_eq_next.mp h
  obtain ⟨a, ha, h⟩ := andThen_eq_next.mp h
  exact ⟨a.2, (effective_frame ha).1, finish_instrFrame h (InstrFrame.refl _ _)⟩

theorem execJsr_work {target : Word} {s t : State} (h : execJsr target s = .next t) :
    BusThenWork (.jsr target) s t := by
  obtain ⟨e, -, h⟩ := withEntry_eq_next.mp h
  exact (finish_instrFrame h (pushWord_instrFrame rfl _ s)).busThenWork

theorem execRts_work {s t : State} (h : execRts s = .next t) : BusThenWork .rts s t := by
  obtain ⟨e, -, h⟩ := withEntry_eq_next.mp h
  refine (finish_instrFrame (s := s) h ⟨?_, rfl, id⟩).busThenWork
  constructor <;> simp [writesSp]

theorem execBrk_work {s t : State} (h : execBrk s = .next t) : BusThenWork .brk s t := by
  obtain ⟨e, -, h⟩ := withEntry_eq_next.mp h
  exact (enterInterrupt_instrFrame h).busThenWork

theorem execRti_work {s t : State} (h : execRti s = .next t) : BusThenWork .rti s t := by
  obtain ⟨e, -, h⟩ := withEntry_eq_next.mp h
  rw [returnFromInterrupt_eq] at h
  cases h
  refine InstrFrame.busThenWork ⟨?_, rfl, id⟩
  constructor <;> simp [writesSp, writesC, writesZN, writesV, writesD, writesI]

/-- What an instruction that goes on can do: bus accesses, and the work its list allows. -/
theorem exec_work {i : Instr} {s t : State} (h : exec i s = .next t) : BusThenWork i s t := by
  cases i with
  | lda | ldx | ldy | and | ora | eor =>
    simp only [exec, execLda, execLdx, execLdy, execAnd, execOra, execEor] at h
    refine reading_work h fun m u => ⟨?_, rfl, id⟩
    constructor <;> simp [writesA, writesX, writesY, writesZN, Flags.setZN]
  | cmp | cpx | cpy | bit =>
    simp only [exec, execCmp, execCpx, execCpy, execBit] at h
    refine reading_work h fun m u => ⟨?_, rfl, id⟩
    constructor <;> simp [writesC, writesZN, writesV, Flags.afterCompare, Flags.afterBit]
  | adc | sbc =>
    simp only [exec, execAdc, execSbc] at h
    refine reading_work (binary_eq_next.mp h).2 fun m u => ⟨?_, rfl, id⟩
    constructor <;> simp [writesA, writesC, writesZN, writesV, Flags.afterAlu, Flags.setZN]
  | sta | stx | sty =>
    simp only [exec, execSta, execStx, execSty] at h
    exact storing_work h
  | inc | dec =>
    simp only [exec, execInc, execDec] at h
    refine modifying_work h fun m u => ⟨?_, rfl, id⟩
    constructor <;> simp [writesZN, Flags.setZN]
  | asl | lsr | rol | ror =>
    simp only [exec, execAsl, execLsr, execRol, execRor] at h
    exact shifting_work h (fun ho => by simp [writesA, ho]) rfl rfl
  | tax | tay | txa | tya | tsx | txs | inx | iny | dex | dey =>
    simp only [exec, execTax, execTay, execTxa, execTya, execTsx, execTxs, execInx, execIny, execDex, execDey] at h
    refine implied_work h ⟨?_, rfl, id⟩
    constructor <;> simp [writesA, writesX, writesY, writesSp, writesZN, Flags.setZN]
  | clc | sec | cli | sei | cld | sed | clv | nop =>
    simp only [exec, execClc, execSec, execCli, execSei, execCld, execSed, execClv, execNop] at h
    refine implied_work h ⟨?_, rfl, id⟩
    constructor <;> simp [writesC, writesI, writesD, writesV]
  | pha | php =>
    simp only [exec, execPha, execPhp] at h
    exact implied_work h (push_instrFrame rfl _ s)
  | pla | plp =>
    simp only [exec, execPla, execPlp] at h
    refine implied_work h ⟨?_, rfl, id⟩
    constructor <;> simp [writesA, writesSp, writesC, writesZN, writesV, writesD, writesI, Flags.setZN]
  | bcc | bcs | beq | bne | bmi | bpl | bvc | bvs =>
    simp only [exec, execBcc, execBcs, execBeq, execBne, execBmi, execBpl, execBvc, execBvs] at h
    exact branching_work h
  | jmp => exact execJmp_work h
  | jsr => exact execJsr_work h
  | rts => exact execRts_work h
  | brk => exact execBrk_work h
  | rti => exact execRti_work h
  | undefinedOpcode => cases h

/-- An instruction writes only the registers listed for it: its bus accesses write none. -/
theorem exec_registers {i : Instr} {s t : State} (h : exec i s = .next t) : WritesOnlyListed i s.cpu t.cpu := by
  obtain ⟨u, hbus, hwork⟩ := exec_work h
  have hregs := hwork.registers
  rw [hbus.cpu] at hregs
  exact ⟨hregs.a, hregs.x, hregs.y, hregs.sp, hregs.carry, hregs.zeroNegative, hregs.overflow, hregs.decimal,
    hregs.interruptDisable⟩

/-! ### The invariant -/

/-- The work of an instruction keeps the invariant: of what it speaks of only the arrays may have changed. -/
theorem InstrFrame.inv {i : Instr} {s t : State} (f : InstrFrame i s t) (hfixed : t.fixedPart = s.fixedPart)
    (h : Safety.Inv s) : Safety.Inv t := by
  obtain ⟨hcounters, hsprites, hnmi, hmem, hcart⟩ := h
  have ht : t.params = s.params := congrArg FixedPart.params hfixed
  have hc : t.cart = s.cart := congrArg FixedPart.cart hfixed
  refine ⟨?_, ?_, ?_, f.wf hmem, ?_⟩
  · rwa [Safety.CountersBounded, f.ppu, ht]
  · rwa [Safety.SpritesBounded, f.ppu]
  · rwa [Safety.NmiLineFollowsVblank, f.ppu]
  · rwa [hc]

theorem exec_inv {i : Instr} {s t : State} (h : exec i s = .next t) (hs : Safety.Inv s) : Safety.Inv t := by
  obtain ⟨u, hbus, hwork⟩ := exec_work h
  exact hwork.inv ((exec_fixedPart h).trans hbus.fixedPart.symm) (hbus.inv hs)

theorem enterInterrupt_inv {ret : Word} {status : Byte} {vector : Word} {n : Nat} {s t : State}
    (h : enterInterrupt ret status vector n s = .next t) (hs : Safety.Inv s) : Safety.Inv t :=
  (enterInterrupt_instrFrame h).inv (enterInterrupt_fixedPart h) hs

theorem cpuStep_inv {s t : State} (h : cpuStep s = .next t) (hs : Safety.Inv s) : Safety.Inv t := by
  obtain ⟨-, h⟩ | ⟨-, -, -, h⟩ | ⟨-, -, r, hr, h⟩ := cpuStep_cases h
  · unfold nmiEntry at h
    exact enterInterrupt_inv h hs
  · unfold irqEntry at h
    exact enterInterrupt_inv h hs
  · exact exec_inv h ((fetch_frame hr).1.inv hs)

/-- A stall cycle and the count of cycles touch nothing the invariant speaks of. -/
theorem cpuCycle_inv {s t : State} (h : cpuCycle s = .next t) (hs : Safety.Inv s) : Safety.Inv t := by
  obtain ⟨-, rfl⟩ | ⟨-, h⟩ := cpuCycle_cases h
  · exact hs
  · exact cpuStep_inv h hs

theorem step_inv {s t : State} (h : step s = .next t) (hs : Safety.Inv s) : Safety.Inv t := by
  obtain ⟨-, -, ⟨-, u, hu, rfl⟩ | ⟨-, rfl⟩⟩ := step_cases h
  · exact endTick_inv (cpuCycle_inv hu hs)
  · exact endTick_inv hs

theorem frame_pos_of_admitted {k : Params} (h : k.admitted = true) : 0 < k.linesPerFrame ∧ 0 < k.dotsPerLine := by
  simp only [Params.admitted, Bool.and_eq_true, decide_eq_true_eq] at h
  exact h.2

/-- The machine of power-on, with any canonical arrays in it, meets the invariant where a frame has a dot. -/
theorem powerOn_inv {k : Params} {c : Cartridge} {m : Memory} (irqLine : Bool) (draws : Nat)
    (hframe : 0 < k.linesPerFrame ∧ 0 < k.dotsPerLine) (hm : m.wf = true) (hc : c.wf = true) :
    Safety.Inv { State.powerOn k c with mem := m, irqLine := irqLine, draws := draws } :=
  ⟨hframe, ⟨Nat.zero_le 8, Nat.zero_le 8⟩, rfl, hm, hc⟩

/-- A later reset keeps the invariant, also where the cartridge is not admitted and only `sys.halted` changes (R471). -/
theorem resetMachine_inv {s : State} (h : Safety.Inv s) : Safety.Inv (resetMachine s) := by
  have ⟨hcounters, _, _, hmem, hcart⟩ := h
  unfold resetMachine
  split
  · exact powerOn_inv s.irqLine s.draws (hcounters.imp Nat.zero_lt_of_lt Nat.zero_lt_of_lt) hmem hcart
  · exact h

end Sys2Proof.Machine

namespace Sys2Proof.Spec

open Sys2Proof.Machine

/-- Settles O60: the CPU cycle keeps the invariant, through what an instruction or an interrupt entry can do, and so does the
dot. -/
theorem everyStepKeepsTheInvariant : Obligations.EveryStepKeepsTheInvariant :=
  fun _ _ hs h => step_inv h hs

/-- Settles O36: the registers from what an instruction can do, B from its fixed part. -/
theorem onlyTheListedInstructionsWriteARegister : Obligations.OnlyTheListedInstructionsWriteARegister := by
  intro i s t h
  obtain ⟨ha, hx, hy, hsp, hc, hzn, hv, hd, hi⟩ := exec_registers h
  have hb : t.cpu.p.b = s.cpu.p.b := congrArg FixedPart.b (exec_fixedPart h)
  exact ⟨ha, hx, hy, hsp, hc, hzn, hv, hd, hi, hb⟩

/-- Settles O59: power-on, in particular with the spec's parameters and the blank cartridge, and a later reset. -/
theorem resetMeetsTheInvariant : Obligations.ResetMeetsTheInvariant := by
  refine ⟨fun k c hk hc => ?_, ?_, fun s hs => resetMachine_inv hs⟩
  · exact powerOn_inv false 0 (frame_pos_of_admitted hk) rfl hc
  · exact powerOn_inv false 0 (by decide) rfl rfl

end Sys2Proof.Spec
end

section
/-! SUPPORT. The CPU bus by window (O38, O39): one rule per window for a read and for a write, in the terms of the
statements (20_memory.md R71 to R74, R78). -/

namespace Sys2Proof.Machine

open Sys2Proof.Spec

/-- The windows and the hole cover the bus (R71). -/
theorem window_cases (a : Word) : InRam a ∨ InPorts a ∨ a = 0x4014 ∨ InHole a ∨ InPrg a := by
  by_cases h : a = 0x4014
  · exact .inr (.inr (.inl h))
  · have : a.toNat ≠ 0x4014 := fun ha => h (BitVec.eq_of_toNat_eq ha)
    simp only [InRam, InPorts, InHole, InPrg]
    omega

/-- The port an address reaches, on numbers (R75). -/
theorem portOf_eq_ofNat (a : Word) : portOf a = BitVec.ofNat 3 (a.toNat % 8) := by
  apply BitVec.eq_of_toNat_eq
  simp [portOf]

section
variable {a : Word}

theorem le_of_inRam (h : InRam a) : a ≤ 0x1FFF := h
theorem not_le_of_inPorts (h : InPorts a) : ¬a ≤ 0x1FFF := Nat.not_le_of_lt h.1
theorem le_of_inPorts (h : InPorts a) : a ≤ 0x3FFF := h.2

/-- An address of the hole passes every test of the bus but the one for 0x7FFF. -/
theorem bus_tests_of_inHole (h : InHole a) : ¬a ≤ 0x1FFF ∧ ¬a ≤ 0x3FFF ∧ a ≠ dmaPort ∧ a ≤ 0x7FFF := by
  unfold dmaPort
  bv_omega

/-- An address of the PRG window fails every test of the bus. -/
theorem bus_tests_of_inPrg (h : InPrg a) : ¬a ≤ 0x1FFF ∧ ¬a ≤ 0x3FFF ∧ a ≠ dmaPort ∧ ¬a ≤ 0x7FFF := by
  unfold dmaPort
  bv_omega

theorem memRead_inRam (h : InRam a) (s : State) : memRead a s = .next (ramRead a s, s) := by
  rw [memRead, if_pos (le_of_inRam h)]

theorem memWrite_inRam (h : InRam a) (v : Byte) (s : State) : memWrite a v s = .next (ramWrite a v s) := by
  rw [memWrite, if_pos (le_of_inRam h)]

theorem memRead_inPorts (h : InPorts a) (s : State) : memRead a s = portRead (portOf a) s := by
  rw [memRead, if_neg (not_le_of_inPorts h), if_pos (le_of_inPorts h)]

theorem memWrite_inPorts (h : InPorts a) (v : Byte) (s : State) : memWrite a v s = portWrite (portOf a) v s := by
  rw [memWrite, if_neg (not_le_of_inPorts h), if_pos (le_of_inPorts h)]

theorem memRead_dmaPort (s : State) : memRead 0x4014 s = .next (draw 8 s) := rfl

theorem memWrite_dmaPort (v : Byte) (s : State) : memWrite 0x4014 v s = oamDma v s := rfl

theorem memRead_inHole (h : InHole a) (s : State) : memRead a s = holeRead a s := by
  obtain ⟨hram, hports, hdma, hhole⟩ := bus_tests_of_inHole h
  rw [memRead, if_neg hram, if_neg hports, if_neg hdma, if_pos hhole]

theorem memWrite_inHole (h : InHole a) (v : Byte) (s : State) : memWrite a v s = holeWrite a v s := by
  obtain ⟨hram, hports, hdma, hhole⟩ := bus_tests_of_inHole h
  rw [memWrite, if_neg hram, if_neg hports, if_neg hdma, if_pos hhole]

theorem memRead_inPrg (h : InPrg a) (s : State) : memRead a s = .next (s.cart.cpuByte a, s) := by
  obtain ⟨hram, hports, hdma, hhole⟩ := bus_tests_of_inPrg h
  rw [memRead, if_neg hram, if_neg hports, if_neg hdma, if_neg hhole]

theorem memWrite_inPrg (h : InPrg a) (v : Byte) (s : State) : memWrite a v s = .next s := by
  obtain ⟨hram, hports, hdma, hhole⟩ := bus_tests_of_inPrg h
  rw [memWrite, if_neg hram, if_neg hports, if_neg hdma, if_neg hhole]

end

end Sys2Proof.Machine

namespace Sys2Proof.Spec

open Sys2Proof.Machine

/-- Settles O38: the rule of each window, and in the hole that of its policy. -/
theorem cpuBusMap : Obligations.CpuBusMap := by
  intro a v s
  refine ⟨fun h => ⟨memRead_inRam h s, memWrite_inRam h v s⟩, fun h => ?_, fun h => ?_, fun h => ?_,
    fun h hpolicy => ?_, fun h => ⟨memRead_inPrg h s, memWrite_inPrg h v s⟩⟩
  · rw [← portOf_eq_ofNat]
    exact ⟨memRead_inPorts h s, memWrite_inPorts h v s⟩
  · subst h
    exact ⟨memRead_dmaPort s, memWrite_dmaPort v s⟩
  · obtain ⟨hhole, hpolicy⟩ := h
    rw [memRead_inHole hhole, memWrite_inHole hhole]
    exact ⟨holeRead_fault hpolicy a, holeWrite_fault hpolicy a v⟩
  · rw [memRead_inHole h, memWrite_inHole h]
    exact ⟨holeRead_ram hpolicy a, _, holeWrite_ram hpolicy a v, rfl, fun i => Memory.holeByte_putHole _ _ i v⟩

/-- Settles O39: two addresses of the RAM window reach the same byte exactly where their indexes agree (R74). -/
theorem ramMirrors : Obligations.RamMirrors := by
  intro a b v s ha hb
  refine ⟨_, memWrite_inRam ha v s, rfl, ?_⟩
  have hread : ramRead b (ramWrite a v s) = if b.toNat % 2048 = a.toNat % 2048 then v else ramRead b s :=
    Memory.ramByte_putRam s.mem (ramIndex a) (ramIndex b) v
  rw [memRead_inRam hb, memRead_inRam hb, andThen_next, hread]
  split_ifs <;> rfl

end Sys2Proof.Spec
end

section
/-! SUPPORT. The PPU bus by window (O40): its cell indexes as numbers and one rule per window for a read and for a write
(20_memory.md R90 to R95). -/

namespace Sys2Proof.Machine

/-! ### Cell indexes -/

/-- Ten low bits under one other bit: an index of the nametable memory, as a number (R93). -/
theorem toNat_nametableBits (a : PpuAddr) (k : Nat) :
    (a.extractLsb' k 1 ++ a.extractLsb' 0 10 : BitVec 11).toNat = a.toNat / 2 ^ k % 2 * 1024 + a.toNat % 1024 := by
  have hlow : a.toNat % 1024 < 2 ^ 10 := Nat.mod_lt _ (by decide)
  simp only [BitVec.toNat_append, BitVec.extractLsb'_toNat, Nat.shiftRight_eq_div_pow, Nat.pow_zero, Nat.div_one]
  rw [← Nat.shiftLeft_add_eq_or_of_lt hlow, Nat.shiftLeft_eq]

theorem ntIndex_vertical (a : PpuAddr) : ntIndex .vertical a = a.toNat % 2048 := by
  have := toNat_nametableBits a 10
  simp only [ntIndex]
  omega

theorem ntIndex_horizontal (a : PpuAddr) :
    ntIndex .horizontal a = a.toNat / 2048 % 2 * 1024 + a.toNat % 1024 :=
  toNat_nametableBits a 11

/-- The palette index as a number: where the two low bits are 0, bit 4 is dropped (R95). -/
theorem palIndex_eq (a : PpuAddr) :
    palIndex a = if a.toNat % 4 = 0 then a.toNat % 16 else a.toNat % 32 := by
  have hmask : a &&& 0x13 = 0x10 ↔ a.toNat % 32 &&& 0x13 = 0x10 := by
    rw [← BitVec.toNat_inj, BitVec.toNat_and, ← Nat.and_two_pow_sub_one_eq_mod a.toNat 5, Nat.and_assoc]
    rfl
  have hbits : ∀ n < 32, n &&& 0x13 = 0x10 ↔ n % 4 = 0 ∧ 16 ≤ n := by decide
  have h16 : (a &&& 0x0F).toNat = a.toNat % 16 := Nat.and_two_pow_sub_one_eq_mod a.toNat 4
  have h32 : (a &&& 0x1F).toNat = a.toNat % 32 := Nat.and_two_pow_sub_one_eq_mod a.toNat 5
  rw [palIndex, h16, h32]
  simp only [hmask, hbits _ (Nat.mod_lt _ (by decide))]
  split_ifs <;> omega

/-! ### The windows -/

section
variable {a : PpuAddr} (c : Cartridge) (v : Byte) (m : Memory)

theorem ppuRead_chr (h : a.toNat < 0x2000) : ppuRead c m a = c.chrByte a.toNat := by
  have hchr : a ≤ 0x1FFF := Nat.le_of_lt_succ h
  rw [ppuRead, if_pos hchr, Cartridge.mapPpu]

theorem ppuWrite_chr (h : a.toNat < 0x2000) : ppuWrite c a v m = m := by
  have hchr : a ≤ 0x1FFF := Nat.le_of_lt_succ h
  rw [ppuWrite, if_pos hchr]

/-- An address of the nametables passes the second test of the bus only. -/
theorem bus_tests_of_nametable (h : 0x2000 ≤ a.toNat ∧ a.toNat < 0x3F00) : ¬a ≤ 0x1FFF ∧ a ≤ 0x3EFF :=
  ⟨Nat.not_le_of_lt h.1, Nat.le_of_lt_succ h.2⟩

/-- An address of the palette fails both tests of the bus. -/
theorem bus_tests_of_palette (h : 0x3F00 ≤ a.toNat) : ¬a ≤ 0x1FFF ∧ ¬a ≤ 0x3EFF := by
  bv_omega

theorem ppuRead_nametable (h : 0x2000 ≤ a.toNat ∧ a.toNat < 0x3F00) :
    ppuRead c m a = m.vramByte (ntIndex c.mirroring a) := by
  obtain ⟨hchr, hnt⟩ := bus_tests_of_nametable h
  rw [ppuRead, if_neg hchr, if_pos hnt]

theorem ppuWrite_nametable (h : 0x2000 ≤ a.toNat ∧ a.toNat < 0x3F00) :
    ppuWrite c a v m = m.putVram (ntIndex c.mirroring a) v := by
  obtain ⟨hchr, hnt⟩ := bus_tests_of_nametable h
  rw [ppuWrite, if_neg hchr, if_pos hnt]

theorem ppuRead_palette (h : 0x3F00 ≤ a.toNat) : ppuRead c m a = (m.palCell (palIndex a)).setWidth 8 := by
  obtain ⟨hchr, hnt⟩ := bus_tests_of_palette h
  rw [ppuRead, if_neg hchr, if_neg hnt]

theorem ppuWrite_palette (h : 0x3F00 ≤ a.toNat) :
    ppuWrite c a v m = m.putPal (palIndex a) (v.extractLsb' 0 6) := by
  obtain ⟨hchr, hnt⟩ := bus_tests_of_palette h
  rw [ppuWrite, if_neg hchr, if_neg hnt]

/-- A write to the PPU bus changes `vram` and the palette RAM at most. -/
theorem ppuWrite_mem (a : PpuAddr) :
    ppuWrite c a v m = { m with vram := (ppuWrite c a v m).vram, pal := (ppuWrite c a v m).pal } := by
  unfold ppuWrite
  split
  · rfl
  · split <;> rfl

end

/-- A palette cell keeps six bits of the byte written (R90). -/
theorem setWidth_sixBits (v : Byte) : (v.extractLsb' 0 6).setWidth 8 = BitVec.ofNat 8 (v.toNat % 64) := by
  apply BitVec.eq_of_toNat_eq
  simp

end Sys2Proof.Machine

namespace Sys2Proof.Spec

open Sys2Proof.Machine

/-- Settles O40: the rule of each window of the PPU bus, and a read after a write of the array behind it. -/
theorem ppuBusReadsBackWrites : Obligations.PpuBusReadsBackWrites := by
  intro c m a b v nametable palette isNametable isPalette
  have hnametable : ∀ a, ntIndex c.mirroring a = nametable a := by
    intro a
    simp only [nametable]
    split <;> rename_i hmirroring <;> rw [hmirroring]
    · exact ntIndex_vertical a
    · exact ntIndex_horizontal a
  have hpalette : ∀ a, palIndex a = palette a := palIndex_eq
  refine ⟨fun ha => ⟨ppuWrite_chr c v m ha, ppuRead_chr c m ha⟩, fun ha hb => ?_, fun ha hb => ?_, fun ha hb => ?_,
    fun ha hb => ?_, ppuWrite_mem c v m a⟩
  · rw [ppuWrite_nametable c v m ha, ppuRead_nametable c _ hb, ppuRead_nametable c m hb, Memory.vramByte_putVram,
      hnametable, hnametable]
  · rw [ppuWrite_palette c v m ha, ppuRead_palette c _ hb, ppuRead_palette c m hb, Memory.palCell_putPal,
      hpalette, hpalette, apply_ite (BitVec.setWidth 8), setWidth_sixBits]
  · rw [ppuWrite_palette c v m ha, ppuRead_nametable c _ hb, ppuRead_nametable c m hb]
    rfl
  · rw [ppuWrite_nametable c v m ha, ppuRead_palette c _ hb, ppuRead_palette c m hb]
    rfl

end Sys2Proof.Spec
end

section
/-! SUPPORT. Which bytes an access to one address of the CPU bus can change (O10): the frame of a read and of a write by
window, of the storing shapes, and of the instructions that store. -/

namespace Sys2Proof.Machine

open Sys2Proof.Spec

/-! ### The arrays -/

section
variable {m n : Memory} (k : Nat)

theorem Memory.ramByte_congr (h : m.ram = n.ram) : m.ramByte k = n.ramByte k := by rw [ramByte, ramByte, h]
theorem Memory.vramByte_congr (h : m.vram = n.vram) : m.vramByte k = n.vramByte k := by rw [vramByte, vramByte, h]
theorem Memory.oamByte_congr (h : m.oam = n.oam) : m.oamByte k = n.oamByte k := by rw [oamByte, oamByte, h]
theorem Memory.palCell_congr (h : m.pal = n.pal) : m.palCell k = n.palCell k := by rw [palCell, palCell, h]
theorem Memory.holeByte_congr (h : m.hole = n.hole) : m.holeByte k = n.holeByte k := by rw [holeByte, holeByte, h]

end

theorem writeOamData_mem {d : Byte} {s t : State} (h : writeOamData d s = .next t) :
    t.mem = s.mem.putOam s.ppu.oamaddr.toNat d := by
  unfold writeOamData at h
  split at h <;> cases h
  rfl

theorem writeData_mem {d : Byte} {s t : State} (h : writeData d s = .next t) :
    t.mem = ppuWrite s.cart s.ppu.dataAddr d s.mem := by
  unfold writeData at h
  split at h <;> cases h
  rfl

/-- The scroll and address ports write no array. -/
@[simp] theorem writeScroll_mem (d : Byte) (s : State) : (writeScroll d s).mem = s.mem := by
  unfold writeScroll; split <;> rfl
@[simp] theorem writeAddr_mem (d : Byte) (s : State) : (writeAddr d s).mem = s.mem := by
  unfold writeAddr; split <;> rfl

/-- The eight ports (R75). -/
theorem port_cases (p : BitVec 3) :
    p = 0 ∨ p = 1 ∨ p = 2 ∨ p = 3 ∨ p = 4 ∨ p = 5 ∨ p = 6 ∨ p = 7 := by
  revert p; decide

/-- A port write changes `oam` through port 4, the arrays of the PPU bus through port 7, and nothing through the others
(R305). -/
theorem portWrite_mem {p : BitVec 3} {d : Byte} {s t : State} (h : portWrite p d s = .next t) :
    t.mem = if p = 4 then s.mem.putOam s.ppu.oamaddr.toNat d
      else if p = 7 then ppuWrite s.cart s.ppu.dataAddr d s.mem else s.mem := by
  rcases port_cases p with rfl | rfl | rfl | rfl | rfl | rfl | rfl | rfl
  · cases h; rfl
  · cases h; rfl
  · cases h; rfl
  · cases h; rfl
  · exact writeOamData_mem h
  · cases h; exact writeScroll_mem d s
  · cases h; exact writeAddr_mem d s
  · exact writeData_mem h

/-- OAM DMA changes no array but `oam` (R410). -/
theorem oamDmaCopy_mem {p : Byte} {n : Nat} {s t : State} (h : oamDmaCopy p n s = .next t) :
    t.mem = { s.mem with oam := t.mem.oam } := by
  induction n generalizing s with
  | zero => cases h; rfl
  | succ n ih =>
    obtain ⟨r, hr, h⟩ := andThen_eq_next.mp h
    rw [ih h, State.setMem_mem, memRead_mem hr]
    rfl

theorem oamDma_mem {p : Byte} {s t : State} (h : oamDma p s = .next t) : t.mem = { s.mem with oam := t.mem.oam } := by
  unfold oamDma at h
  split at h
  · cases h
  · exact oamDmaCopy_mem h

/-! ### The frame of an access -/

/-- What an access to the address `a` of the CPU bus leaves beside `BusFrame`: every byte `a` does not reach, and where `a`
is no port the PPU, the free values and the NMI latch. -/
structure AccessFrame (a : Word) (s t : State) : Prop where
  ram : ∀ k, (InRam a → k ≠ a.toNat % 2048) → t.mem.ramByte k = s.mem.ramByte k
  hole : ∀ k, (InHole a → k ≠ a.toNat % 0x4000) → t.mem.holeByte k = s.mem.holeByte k
  ppuBus : ¬AtPort 7 a → (∀ k, t.mem.vramByte k = s.mem.vramByte k) ∧ ∀ k, t.mem.palCell k = s.mem.palCell k
  oam : ¬AtPort 4 a → a ≠ 0x4014 → ∀ k, t.mem.oamByte k = s.mem.oamByte k
  devices : ¬InPorts a → a ≠ 0x4014 → t.ppu = s.ppu ∧ t.draws = s.draws ∧ t.cpu.nmiPending = s.cpu.nmiPending

section
variable {a : Word} {s t u : State}

/-- Where no array changes, only the devices are left to speak of. -/
theorem AccessFrame.of_mem_eq (hmem : t.mem = s.mem)
    (devices : ¬InPorts a → a ≠ 0x4014 → t.ppu = s.ppu ∧ t.draws = s.draws ∧ t.cpu.nmiPending = s.cpu.nmiPending) :
    AccessFrame a s t where
  ram _ _ := by rw [hmem]
  hole _ _ := by rw [hmem]
  ppuBus _ := by simp [hmem]
  oam _ _ _ := by rw [hmem]
  devices := devices

theorem AccessFrame.trans (f : AccessFrame a s t) (g : AccessFrame a t u) : AccessFrame a s u where
  ram k hk := (g.ram k hk).trans (f.ram k hk)
  hole k hk := (g.hole k hk).trans (f.hole k hk)
  ppuBus ha := by
    obtain ⟨hvram, hpal⟩ := f.ppuBus ha
    obtain ⟨gvram, gpal⟩ := g.ppuBus ha
    exact ⟨fun k => (gvram k).trans (hvram k), fun k => (gpal k).trans (hpal k)⟩
  oam ha hdma k := (g.oam ha hdma k).trans (f.oam ha hdma k)
  devices ha hdma := by
    obtain ⟨hppu, hdraws, hnmi⟩ := f.devices ha hdma
    obtain ⟨gppu, gdraws, gnmi⟩ := g.devices ha hdma
    exact ⟨gppu.trans hppu, gdraws.trans hdraws, gnmi.trans hnmi⟩

/-- PC and the stall count are no part of the frame. -/
theorem AccessFrame.retire (f : AccessFrame a s u) (pc : Word) (n : Nat) :
    AccessFrame a s ((u.setPc pc).setStall n) :=
  f.trans (.of_mem_eq rfl fun _ _ => ⟨rfl, rfl, rfl⟩)

/-- Only a port or the DMA port answers a read with another state. -/
theorem memRead_pure {r : Byte × State} (h : memRead a s = .next r) (hports : ¬InPorts a) (hdma : a ≠ 0x4014) :
    r.2 = s := by
  rcases window_cases a with ha | ha | ha | ha | ha
  · rw [memRead_inRam ha] at h; cases h; rfl
  · exact absurd ha hports
  · exact absurd ha hdma
  · rw [memRead_inHole ha] at h; exact holeRead_eq_next h
  · rw [memRead_inPrg ha] at h; cases h; rfl

theorem memRead_access {r : Byte × State} (h : memRead a s = .next r) : AccessFrame a s r.2 :=
  .of_mem_eq (memRead_mem h) fun hports hdma => by simp [memRead_pure h hports hdma]

/-! ### The frame of a write, by window -/

theorem ramWrite_access (ha : InRam a) (v : Byte) (s : State) : AccessFrame a s (ramWrite a v s) where
  ram k hk := by
    rw [ramWrite, State.setMem_mem, Memory.ramByte_putRam]
    exact if_neg (hk ha)
  hole _ _ := rfl
  ppuBus _ := ⟨fun _ => rfl, fun _ => rfl⟩
  oam _ _ _ := rfl
  devices _ _ := ⟨rfl, rfl, rfl⟩

theorem holeWrite_access {v : Byte} (ha : InHole a) (h : holeWrite a v s = .next t) : AccessFrame a s t := by
  unfold holeWrite at h
  split at h <;> cases h
  exact
    { ram := fun _ _ => rfl
      hole := fun k hk => by
        rw [State.setMem_mem, Memory.holeByte_putHole]
        exact if_neg (hk ha)
      ppuBus := fun _ => ⟨fun _ => rfl, fun _ => rfl⟩
      oam := fun _ _ _ => rfl
      devices := fun _ _ => ⟨rfl, rfl, rfl⟩ }

/-- The number of the port an address of the port window reaches. -/
theorem atPort_of_portOf (ha : InPorts a) : AtPort (portOf a).toNat a := by
  refine ⟨ha, ?_⟩
  rw [portOf_eq_ofNat, BitVec.toNat_ofNat, Nat.mod_mod]

theorem portWrite_access {v : Byte} (ha : InPorts a) (h : portWrite (portOf a) v s = .next t) :
    AccessFrame a s t := by
  have hport := atPort_of_portOf ha
  have hmem := portWrite_mem h
  split_ifs at hmem with h4 h7
  · rw [h4] at hport
    exact
      { ram := fun _ _ => by rw [hmem]; rfl
        hole := fun _ _ => by rw [hmem]; rfl
        ppuBus := fun _ => by rw [hmem]; exact ⟨fun _ => rfl, fun _ => rfl⟩
        oam := fun hno _ => absurd hport hno
        devices := fun hno _ => absurd ha hno }
  · rw [h7] at hport
    rw [ppuWrite_mem] at hmem
    exact
      { ram := fun _ _ => by rw [hmem]; rfl
        hole := fun _ _ => by rw [hmem]; rfl
        ppuBus := fun hno => absurd hport hno
        oam := fun _ _ _ => by rw [hmem]; rfl
        devices := fun hno _ => absurd ha hno }
  · exact .of_mem_eq hmem fun hno _ => absurd ha hno

theorem oamDma_access {v : Byte} (h : oamDma v s = .next t) : AccessFrame 0x4014 s t where
  ram _ _ := by rw [oamDma_mem h]; rfl
  hole _ _ := by rw [oamDma_mem h]; rfl
  ppuBus _ := by rw [oamDma_mem h]; exact ⟨fun _ => rfl, fun _ => rfl⟩
  oam _ hdma := absurd rfl hdma
  devices _ hdma := absurd rfl hdma

/-- A write to the bus, through the window its address lies in. -/
theorem memWrite_access {v : Byte} (h : memWrite a v s = .next t) : AccessFrame a s t := by
  rcases window_cases a with ha | ha | ha | ha | ha
  · rw [memWrite_inRam ha] at h; cases h; exact ramWrite_access ha v s
  · rw [memWrite_inPorts ha] at h; exact portWrite_access ha h
  · subst ha; exact oamDma_access h
  · rw [memWrite_inHole ha] at h; exact holeWrite_access ha h
  · rw [memWrite_inPrg ha] at h; cases h; exact .of_mem_eq rfl fun _ _ => ⟨rfl, rfl, rfl⟩

/-! ### The storing forms -/

variable {o : Operand} {e : Effective}

/-- A store accesses the bus at its effective address alone. -/
theorem storing_access {mn : Mnemonic} {v : Byte} (he : effective o s = .next (e, s))
    (h : storing mn o v s = .next t) : AccessFrame e.ea s t := by
  obtain ⟨entry, r, u, -, hr, hu, rfl⟩ := storing_eq_next.mp h
  cases he.symm.trans hr
  exact (memWrite_access hu).retire _ _

/-- A store leaves the flags (R204 to R206). -/
theorem storing_flags {mn : Mnemonic} {v : Byte} (h : storing mn o v s = .next t) : t.cpu.p = s.cpu.p := by
  obtain ⟨entry, r, u, -, hr, hu, rfl⟩ := storing_eq_next.mp h
  rw [State.setStall_cpu_p, State.setPc_cpu_p, ((effective_frame hr).1.trans (memWrite_frame hu)).cpu]

/-- A read-modify-write reads and writes at its effective address alone; its own work is on the flags. -/
theorem modifying_access {mn : Mnemonic} {r : Byte → Byte} {p : Byte → State → Flags}
    (he : effective o s = .next (e, s)) (h : modifying mn o r (fun m u => u.setFlags (p m u)) s = .next t) :
    AccessFrame e.ea s t := by
  obtain ⟨entry, q, m, u, -, hq, hm, hu, rfl⟩ := modifying_eq_next.mp h
  cases he.symm.trans hq
  have hflags : AccessFrame e.ea u (u.setFlags (p m.1 u)) := .of_mem_eq rfl fun _ _ => ⟨rfl, rfl, rfl⟩
  exact (((memRead_access hm).trans (memWrite_access hu)).trans hflags).retire _ _

theorem shifting_access {mn : Mnemonic} {sh : Byte → ShiftResult} (ho : o ≠ .acc)
    (he : effective o s = .next (e, s)) (h : shifting mn o sh s = .next t) : AccessFrame e.ea s t := by
  rw [shifting_mem ho] at h
  exact modifying_access he h

end

/-- The storing forms at an operand (R200, R225, R245). -/
abbrev storingForms (o : Operand) : List Instr :=
  [.sta o, .stx o, .sty o, .inc o, .dec o, .asl o, .lsr o, .rol o, .ror o]

/-- A storing form reads and writes the bus at its effective address alone. -/
theorem exec_access {s t : State} {o : Operand} {i : Instr} {e : Effective} (hi : i ∈ storingForms o) (ho : o ≠ .acc)
    (he : effective o s = .next (e, s)) (h : exec i s = .next t) : AccessFrame e.ea s t := by
  simp only [List.mem_cons, List.not_mem_nil, or_false] at hi
  rcases hi with rfl | rfl | rfl | rfl | rfl | rfl | rfl | rfl | rfl <;>
    simp only [exec, execSta, execStx, execSty, execInc, execDec, execAsl, execLsr, execRol, execRor, State.setZN] at h
  · exact storing_access he h
  · exact storing_access he h
  · exact storing_access he h
  · exact modifying_access he h
  · exact modifying_access he h
  · exact shifting_access ho he h
  · exact shifting_access ho he h
  · exact shifting_access ho he h
  · exact shifting_access ho he h

/-- The storing forms write no register, and C, Z and N at most of the flags. -/
theorem storingForm_writes {o : Operand} {i : Instr} (hi : i ∈ storingForms o) (ho : o ≠ .acc) :
    writesA i = false ∧ writesX i = false ∧ writesY i = false ∧ writesSp i = false ∧ writesV i = false ∧
      writesD i = false ∧ writesI i = false := by
  simp only [List.mem_cons, List.not_mem_nil, or_false] at hi
  rcases hi with rfl | rfl | rfl | rfl | rfl | rfl | rfl | rfl | rfl <;>
    simp [writesA, writesX, writesY, writesSp, writesV, writesD, writesI, ho]

end Sys2Proof.Machine

namespace Sys2Proof.Spec

open Sys2Proof.Machine

/-- Settles O10: the registers from the lists of what an instruction writes, the configuration from its fixed part, the bytes
and the devices from the frame of its accesses, all at the effective address. -/
theorem storingFormsChangeOnlyTheStoredByte : Obligations.StoringFormsChangeOnlyTheStoredByte := by
  intro s t o i e hi ho he h
  have hregs := exec_registers h
  have hfixed := exec_fixedPart h
  simp only [State.fixedPart, FixedPart.mk.injEq] at hfixed
  obtain ⟨hcart, hparams, hb, hhalted, hirq, hmaster, hcyc⟩ := hfixed
  obtain ⟨ha, hx, hy, hsp, hv, hd, hint⟩ := storingForm_writes hi ho
  obtain ⟨hram, hhole, hppuBus, hoam, hdevices⟩ := exec_access hi ho he h
  refine ⟨⟨hregs.a ha, hregs.x hx, hregs.y hy, hregs.sp hsp, hcyc⟩,
    ⟨hregs.decimal hd, hregs.interruptDisable hint, hb, hregs.overflow hv⟩, fun hstep => hregs.carry ?_,
    fun hstore => ?_, hram, hhole, hppuBus, hoam, hdevices, hcart, hparams, hhalted, hmaster, hirq⟩
  · simp only [List.mem_cons, List.not_mem_nil, or_false] at hstep
    rcases hstep with rfl | rfl <;> rfl
  · simp only [List.mem_cons, List.not_mem_nil, or_false] at hstore
    rcases hstore with rfl | rfl | rfl <;> simp only [exec, execSta, execStx, execSty] at h <;> exact storing_flags h

end Sys2Proof.Spec
end

section
/-! SUPPORT. The decoder and the encoder (O1 to O5): the Instruction Table as a relation between opcode bytes and pairs of
mnemonic and addressing mode, the operand bytes of an addressing mode, and one rule per outcome of `decode`
(30_encoding.md R120 to R125, R152, R160). -/

namespace Sys2Proof

open Sys2Proof.Machine

/-! ### The Instruction Table -/

/-- In a list whose keys differ, a search by the key of an element finds that element. -/
theorem find?_key_of_mem {α β : Type} [BEq β] [LawfulBEq β] {key : α → β} {l : List α} {a : α}
    (hkeys : (l.map key).Nodup) (ha : a ∈ l) : l.find? (fun b => key b == key a) = some a := by
  have hfound : (l.find? fun b => key b == key a).isSome = true := List.find?_isSome.mpr ⟨a, ha, BEq.rfl⟩
  obtain ⟨b, hb⟩ := Option.isSome_iff_exists.mp hfound
  have hkey : key b = key a := by simpa using List.find?_some hb
  rw [hb, List.inj_on_of_nodup_map hkeys (List.mem_of_find?_eq_some hb) ha hkey]

theorem Mnemonic.mem_all (mn : Mnemonic) : mn ∈ Mnemonic.all := by cases mn <;> decide

/-- The modes of a mnemonic are those of its entries (R152). -/
theorem Mnemonic.modes_eq (mn : Mnemonic) : mn.modes = mn.entries.map Entry.mode := by cases mn <;> rfl

/-- A mnemonic has one entry at most for an addressing mode (R152). -/
theorem Mnemonic.modes_nodup (mn : Mnemonic) : mn.modes.Nodup := by cases mn <;> decide

set_option maxRecDepth 100000 in
/-- No two rows have one opcode byte (R151). -/
theorem opcodeTable_opcodes_nodup : (opcodeTable.map Row.opcode).Nodup := by
  have hnumbers : ((opcodeTable.map Row.opcode).map BitVec.toNat).Nodup := by decide
  exact hnumbers.of_map BitVec.toNat

theorem mem_opcodeTable {r : Row} :
    r ∈ opcodeTable ↔ ∃ e ∈ r.mn.entries, e.mode = r.mode ∧ e.opcode = r.opcode := by
  obtain ⟨opcode, mn, mode⟩ := r
  simp only [opcodeTable, List.mem_flatMap, List.mem_map, Row.mk.injEq]
  constructor
  · rintro ⟨_, -, e, he, hop, rfl, hmode⟩
    exact ⟨e, he, hmode, hop⟩
  · rintro ⟨e, he, hmode, hop⟩
    exact ⟨mn, mn.mem_all, e, he, hop, rfl, hmode⟩

/-- The entry found for a mnemonic at a mode is the one entry with that mode. -/
theorem tableEntry_eq_some {mn : Mnemonic} {mode : Mode} {e : Entry} :
    tableEntry mn mode = some e ↔ e ∈ mn.entries ∧ e.mode = mode := by
  constructor
  · intro h
    exact ⟨List.mem_of_find?_eq_some h, by simpa using List.find?_some h⟩
  · rintro ⟨he, rfl⟩
    exact find?_key_of_mem (mn.modes_eq ▸ mn.modes_nodup) he

/-- The row found for an opcode byte is the one entry with that byte. -/
theorem lookupOpcode_eq_some {op : Byte} {r : Row} :
    lookupOpcode op = some r ↔ r.opcode = op ∧ ∃ e, tableEntry r.mn r.mode = some e ∧ e.opcode = op := by
  have hrow : r ∈ opcodeTable ↔ ∃ e, tableEntry r.mn r.mode = some e ∧ e.opcode = r.opcode := by
    simp only [mem_opcodeTable, tableEntry_eq_some, and_assoc]
  constructor
  · intro h
    obtain rfl : r.opcode = op := by simpa using List.find?_some h
    exact ⟨rfl, hrow.mp (List.mem_of_find?_eq_some h)⟩
  · rintro ⟨rfl, he⟩
    exact find?_key_of_mem opcodeTable_opcodes_nodup (hrow.mpr he)

/-- A mnemonic takes the modes it has an entry for (R152). -/
theorem Mnemonic.mem_modes {mn : Mnemonic} {mode : Mode} : mode ∈ mn.modes ↔ ∃ e, tableEntry mn mode = some e := by
  simp only [mn.modes_eq, List.mem_map, tableEntry_eq_some]

set_option maxRecDepth 100000 in
/-- R160 lists, in order, the bytes without a row. -/
theorem undefinedOpcodes_eq :
    undefinedOpcodes = ((List.range 256).map (BitVec.ofNat 8)).filter fun op => (lookupOpcode op).isNone := by decide

theorem mem_undefinedOpcodes {op : Byte} : op ∈ undefinedOpcodes ↔ lookupOpcode op = none := by
  have hbyte : op ∈ (List.range 256).map (BitVec.ofNat 8) :=
    List.mem_map.mpr ⟨op.toNat, List.mem_range.mpr op.isLt, BitVec.ofNat_toNat 8 op |>.trans (BitVec.setWidth_eq op)⟩
  rw [undefinedOpcodes_eq, List.mem_filter, Option.isNone_iff_eq_none]
  exact and_iff_right hbyte

/-! ### Operands -/

theorem Mode.length_pos (mode : Mode) : 1 ≤ mode.length := by cases mode <;> decide

theorem Mode.length_le (mode : Mode) : mode.length ≤ 3 := by cases mode <;> decide

/-- An instruction is its opcode byte and its operand bytes (R121, R122). -/
theorem Operand.length_bytes (o : Operand) : o.bytes.length + 1 = o.mode.length := by cases o <;> rfl

@[simp] theorem Operand.mode_ofBytes (mode : Mode) (b1 b2 : Byte) : (Operand.ofBytes mode b1 b2).mode = mode := by
  cases mode <;> rfl

namespace Machine

/-- The bytes of a word on numbers (R10). -/
theorem toNat_joinBytes (hi lo : Byte) : (joinBytes hi lo).toNat = hi.toNat * 256 + lo.toNat := by
  rw [joinBytes_eq_ofNat, BitVec.toNat_ofNat]
  omega

theorem toNat_hiByte (w : Word) : (hiByte w).toNat = w.toNat / 256 := by
  rw [hiByte, BitVec.extractLsb'_toNat, Nat.shiftRight_eq_div_pow]
  omega

theorem toNat_loByte (w : Word) : (loByte w).toNat = w.toNat % 256 := by
  rw [loByte, BitVec.extractLsb'_toNat, Nat.shiftRight_zero]

theorem joinBytes_hiByte_loByte (w : Word) : joinBytes (hiByte w) (loByte w) = w := by
  apply BitVec.eq_of_toNat_eq
  rw [toNat_joinBytes, toNat_hiByte, toNat_loByte]
  omega

@[simp] theorem hiByte_joinBytes (hi lo : Byte) : hiByte (joinBytes hi lo) = hi := by
  apply BitVec.eq_of_toNat_eq
  rw [toNat_hiByte, toNat_joinBytes]
  omega

@[simp] theorem loByte_joinBytes (hi lo : Byte) : loByte (joinBytes hi lo) = lo := by
  apply BitVec.eq_of_toNat_eq
  rw [toNat_loByte, toNat_joinBytes]
  omega

end Machine

/-- The operand of a mode from a list of operand bytes (R121); a byte the mode has no use for may be missing. -/
def Operand.ofList (mode : Mode) (bytes : List Byte) : Operand :=
  Operand.ofBytes mode (bytes.getD 0 0) (bytes.getD 1 0)

@[simp] theorem Operand.mode_ofList (mode : Mode) (bytes : List Byte) : (Operand.ofList mode bytes).mode = mode :=
  Operand.mode_ofBytes mode _ _

theorem Operand.ofList_bytes (o : Operand) : Operand.ofList o.mode o.bytes = o := by
  cases o <;> simp [ofList, mode, bytes, ofBytes, joinBytes_hiByte_loByte]

/-- Where the bytes are as many as the mode calls for, its operand has exactly these. -/
theorem Operand.bytes_ofList {mode : Mode} {bytes : List Byte} (h : bytes.length + 1 = mode.length) :
    (Operand.ofList mode bytes).bytes = bytes := by
  have hbytes : (Operand.ofList mode bytes).bytes =
      [bytes.getD 0 0, bytes.getD 1 0].take (mode.length - 1) := by
    cases mode <;> simp [ofList, ofBytes, Operand.bytes, Mode.length]
  rw [hbytes, ← h]
  match bytes, Nat.le_of_eq h |>.trans mode.length_le with
  | [], _ => rfl
  | [_], _ => rfl
  | [_, _], _ => rfl

/-! ### Mnemonic and operand -/

theorem Instr.ofParts_of_parts {i : Instr} {mn : Mnemonic} {o : Operand} (h : i.parts = some (mn, o)) :
    Instr.ofParts mn o = some i := by
  cases i <;> cases h <;> rfl

theorem Instr.parts_of_ofParts {i : Instr} {mn : Mnemonic} {o : Operand} (h : Instr.ofParts mn o = some i) :
    i.parts = some (mn, o) := by
  cases mn <;> cases o <;> cases h <;> rfl

/-- Every pair of the table is an instruction, whatever the operand bytes (R152, R161). -/
theorem Instr.exists_parts {mn : Mnemonic} {o : Operand} (h : o.mode ∈ mn.modes) :
    ∃ i : Instr, i.parts = some (mn, o) := by
  have hpairs : (!mn.modes.contains o.mode || (Instr.ofParts mn o).isSome) = true := by
    cases mn <;> cases o <;> rfl
  rw [List.contains_iff_mem.mpr h] at hpairs
  obtain ⟨i, hi⟩ := Option.isSome_iff_exists.mp hpairs
  exact ⟨i, Instr.parts_of_ofParts hi⟩

theorem Instr.parts_eq_none {i : Instr} : i.parts = none ↔ ∃ op, i = .undefinedOpcode op := by
  cases i <;> simp [Instr.parts]

theorem Instr.length_of_parts {i : Instr} {mn : Mnemonic} {o : Operand} (h : i.parts = some (mn, o)) :
    i.length = o.mode.length := by
  rw [Instr.length, h]

theorem Instr.wellFormed_undefinedOpcode {op : Byte} :
    (Instr.undefinedOpcode op).wellFormed = true ↔ op ∈ undefinedOpcodes :=
  List.contains_iff_mem

theorem Instr.wellFormed_of_parts {i : Instr} {mn : Mnemonic} {o : Operand} (h : i.parts = some (mn, o)) :
    i.wellFormed = true ↔ o.mode ∈ mn.modes := by
  unfold Instr.wellFormed
  split
  · cases h
  · simp [h]

theorem encode_of_parts {i : Instr} {mn : Mnemonic} {o : Operand} {e : Entry} (h : i.parts = some (mn, o))
    (he : tableEntry mn o.mode = some e) : encode i = e.opcode :: o.bytes := by
  unfold encode
  split
  · cases h
  · simp [h, he]

/-! ### The outcomes of the decoder -/

theorem decode_undefined {op : Byte} (h : lookupOpcode op = none) (rest : List Byte) :
    decode (op :: rest) = .ok (.undefinedOpcode op, rest) := by
  simp only [decode, h]

/-- A defined opcode byte with the operand bytes it calls for is the instruction of its row, whatever follows. -/
theorem decode_defined {op : Byte} {r : Row} {i : Instr} {bytes : List Byte} (h : lookupOpcode op = some r)
    (hlength : bytes.length + 1 = r.mode.length) (hi : i.parts = some (r.mn, Operand.ofList r.mode bytes))
    (rest : List Byte) : decode (op :: (bytes ++ rest)) = .ok (i, rest) := by
  have hfound := Instr.ofParts_of_parts hi
  match bytes, Nat.le_of_eq hlength |>.trans r.mode.length_le with
  | [], _ | [b1], _ | [b1, b2], _ =>
    simp only [Operand.ofList, List.getD_eq_getElem?_getD] at hfound
    simp_all [decode, ← hlength]

theorem decode_truncated {op : Byte} {r : Row} {rest : List Byte} (h : lookupOpcode op = some r)
    (hlength : rest.length + 1 < r.mode.length) : decode (op :: rest) = .error (.truncated op) := by
  obtain ⟨opcode, mn, mode⟩ := r
  match rest, Nat.lt_of_lt_of_le hlength mode.length_le with
  | [], _ | [b1], _ => cases mode <;> simp_all [decode, Mode.length]

/-- The length the opcode byte calls for (R122, R162). -/
theorem opcodeLength_of_lookup {op : Byte} {r : Row} (h : lookupOpcode op = some r) :
    opcodeLength op = r.mode.length := by
  rw [opcodeLength, h]

theorem opcodeLength_undefined {op : Byte} (h : lookupOpcode op = none) : opcodeLength op = 1 := by
  rw [opcodeLength, h]

/-- The row of an opcode byte pairs a mnemonic with one of its modes. -/
theorem mode_mem_of_lookup {op : Byte} {r : Row} (h : lookupOpcode op = some r) : r.mode ∈ r.mn.modes := by
  obtain ⟨-, e, he, -⟩ := lookupOpcode_eq_some.mp h
  exact Mnemonic.mem_modes.mpr ⟨e, he⟩

/-- A defined opcode byte followed by bytes enough decodes, whatever these are (R122, R161). -/
theorem decode_of_length_le {op : Byte} {r : Row} {rest : List Byte} (h : lookupOpcode op = some r)
    (hlong : r.mode.length ≤ rest.length + 1) :
    ∃ i bytes tail, bytes.length + 1 = r.mode.length ∧ rest = bytes ++ tail ∧
      i.parts = some (r.mn, Operand.ofList r.mode bytes) ∧ decode (op :: rest) = .ok (i, tail) := by
  have hpos := r.mode.length_pos
  have hlength : (rest.take (r.mode.length - 1)).length + 1 = r.mode.length := by
    rw [List.length_take]
    omega
  have hsplit := List.take_append_drop (r.mode.length - 1) rest
  obtain ⟨i, hi⟩ := Instr.exists_parts (o := Operand.ofList r.mode (rest.take (r.mode.length - 1)))
    (by simpa using mode_mem_of_lookup h)
  have hdecode := decode_defined h hlength hi (rest.drop (r.mode.length - 1))
  rw [hsplit] at hdecode
  exact ⟨i, _, _, hlength, hsplit.symm, hi, hdecode⟩

/-- What decodes: an undefined byte, alone; or a defined one and the operand bytes of its mode, whatever these are. -/
theorem decode_eq_ok {op : Byte} {rest tail : List Byte} {i : Instr} :
    decode (op :: rest) = .ok (i, tail) ↔
      (lookupOpcode op = none ∧ i = .undefinedOpcode op ∧ tail = rest) ∨
      ∃ r bytes, lookupOpcode op = some r ∧ bytes.length + 1 = r.mode.length ∧ rest = bytes ++ tail ∧
        i.parts = some (r.mn, Operand.ofList r.mode bytes) := by
  cases h : lookupOpcode op with
  | none => simp [decode_undefined h, eq_comm]
  | some r =>
    constructor
    · intro hok
      have hlong : r.mode.length ≤ rest.length + 1 := by
        by_contra hshort
        rw [decode_truncated h (Nat.lt_of_not_le hshort)] at hok
        cases hok
      obtain ⟨j, bytes, _, hlength, hrest, hj, hdecode⟩ := decode_of_length_le h hlong
      cases hok.symm.trans hdecode
      exact .inr ⟨r, bytes, rfl, hlength, hrest, hj⟩
    · rintro (⟨hnone, -⟩ | ⟨_, bytes, ⟨⟩, hlength, rfl, hi⟩)
      · cases hnone
      · exact decode_defined h hlength hi tail

/-- Decoding goes on exactly where the bytes are as many as the opcode byte calls for (R122, R161). -/
theorem exists_decode_iff {op : Byte} {rest : List Byte} :
    (∃ r, decode (op :: rest) = .ok r) ↔ opcodeLength op ≤ rest.length + 1 := by
  cases h : lookupOpcode op with
  | none => simp [decode_undefined h, opcodeLength_undefined h]
  | some r =>
    rw [opcodeLength_of_lookup h]
    constructor
    · rintro ⟨⟨i, tail⟩, hok⟩
      obtain ⟨hnone, -⟩ | ⟨_, bytes, hr, hlength, rfl, -⟩ := decode_eq_ok.mp hok
      · cases h.symm.trans hnone
      · cases h.symm.trans hr
        simp only [List.length_append]
        omega
    · intro hlong
      obtain ⟨i, _, tail, -, -, -, hok⟩ := decode_of_length_le h hlong
      exact ⟨(i, tail), hok⟩

/-! ### The round trips -/

/-- A well-formed instruction is an undefined opcode byte, or a row of the table with operand bytes; the encoder writes that
row's opcode byte and these. -/
theorem Instr.wellFormed_cases {i : Instr} (h : i.wellFormed = true) :
    (∃ op, i = .undefinedOpcode op ∧ lookupOpcode op = none) ∨
    ∃ r o, i.parts = some (r.mn, o) ∧ o.mode = r.mode ∧ lookupOpcode r.opcode = some r ∧
      encode i = r.opcode :: o.bytes := by
  cases hparts : i.parts with
  | none =>
    obtain ⟨op, rfl⟩ := Instr.parts_eq_none.mp hparts
    exact .inl ⟨op, rfl, mem_undefinedOpcodes.mp (Instr.wellFormed_undefinedOpcode.mp h)⟩
  | some p =>
    obtain ⟨mn, o⟩ := p
    obtain ⟨e, he⟩ := Mnemonic.mem_modes.mp ((Instr.wellFormed_of_parts hparts).mp h)
    exact .inr ⟨⟨e.opcode, mn, o.mode⟩, o, rfl, rfl, lookupOpcode_eq_some.mpr ⟨rfl, e, he, rfl⟩,
      encode_of_parts hparts he⟩

theorem decode_encode {i : Instr} (h : i.wellFormed = true) (rest : List Byte) :
    decode (encode i ++ rest) = .ok (i, rest) := by
  obtain ⟨op, rfl, hop⟩ | ⟨r, o, hparts, hmode, hr, hencode⟩ := i.wellFormed_cases h
  · exact decode_undefined hop rest
  · have hbytes : o.bytes.length + 1 = r.mode.length := hmode ▸ o.length_bytes
    rw [hencode]
    refine decode_defined hr hbytes ?_ rest
    rw [hparts, ← hmode, o.ofList_bytes]

theorem length_encode {i : Instr} (h : i.wellFormed = true) : (encode i).length = i.length := by
  obtain ⟨op, rfl, -⟩ | ⟨r, o, hparts, -, -, hencode⟩ := i.wellFormed_cases h
  · rfl
  · rw [hencode, Instr.length_of_parts hparts, List.length_cons, o.length_bytes]

theorem Instr.length_bounds (i : Instr) : 1 ≤ i.length ∧ i.length ≤ 3 := by
  cases hparts : i.parts with
  | none => simp [Instr.length, hparts]
  | some p =>
    rw [Instr.length_of_parts hparts]
    exact ⟨p.2.mode.length_pos, p.2.mode.length_le⟩

/-- What the decoder read is well-formed, and the encoder writes the bytes read. -/
theorem encode_of_decode {bytes rest : List Byte} {i : Instr} (h : decode bytes = .ok (i, rest)) :
    i.wellFormed = true ∧ encode i ++ rest = bytes := by
  cases bytes with
  | nil => cases h
  | cons op bytes =>
    obtain ⟨hop, rfl, rfl⟩ | ⟨r, operands, hr, hlength, rfl, hparts⟩ := decode_eq_ok.mp h
    · exact ⟨Instr.wellFormed_undefinedOpcode.mpr (mem_undefinedOpcodes.mpr hop), rfl⟩
    · obtain ⟨-, e, he, rfl⟩ := lookupOpcode_eq_some.mp hr
      rw [encode_of_parts (e := e) hparts (by simpa using he), Operand.bytes_ofList hlength]
      exact ⟨(Instr.wellFormed_of_parts hparts).mpr (by simpa using mode_mem_of_lookup hr), rfl⟩

end Sys2Proof

namespace Sys2Proof.Spec

open Sys2Proof.Machine

/-- Settles O1: a well-formed instruction is an undefined byte or a row of the table with its operand bytes, and the decoder
reads back either. -/
theorem decodeOfEncodeIsTheInstruction : Obligations.DecodeOfEncodeIsTheInstruction :=
  fun i rest h => ⟨decode_encode h rest, length_encode h, i.length_bounds⟩

/-- Settles O2: from what decodes, an undefined byte or a row of the table with its operand bytes. -/
theorem encodeOfDecodeIsTheBytes : Obligations.EncodeOfDecodeIsTheBytes :=
  fun _ _ _ h => encode_of_decode h

/-- Settles O3: every pair of the table is an instruction, whatever its operand bytes. -/
theorem decodingFailsOnlyForMissingBytes : Obligations.DecodingFailsOnlyForMissingBytes :=
  fun _ _ => exists_decode_iff

set_option maxRecDepth 100000 in
/-- Settles O4: each word by evaluating the decoder. -/
theorem sampleWordsDecode : Obligations.SampleWordsDecode := by
  unfold Obligations.SampleWordsDecode
  refine ⟨rfl, rfl, rfl, rfl, rfl, rfl, rfl, rfl, rfl, rfl, rfl, rfl, rfl, rfl, rfl, rfl, rfl⟩

/-- Settles O5: the bytes of R160 are those without a row, and these alone decode to an instruction that names a byte. -/
theorem undefinedOpcodesFault : Obligations.UndefinedOpcodesFault := by
  refine ⟨fun op rest => ⟨fun h => decode_undefined (mem_undefinedOpcodes.mp h) rest, fun h => ?_⟩, rfl, by decide,
    fun op s => rfl⟩
  exact Instr.wellFormed_undefinedOpcode.mp (encode_of_decode h).1

end Sys2Proof.Spec
end

section
/-! SUPPORT. The effective addresses on numbers (O7): indexing, the page-cross bit and the pointers in page zero
(30_encoding.md R129 to R138). -/

namespace Sys2Proof.Machine

theorem zext16_eq_ofNat (b : Byte) : zext16 b = BitVec.ofNat 16 b.toNat := by
  rw [zext16, BitVec.ofNat_toNat]

/-- A byte of page zero is the byte of `ram` with that number (R74). -/
theorem ramRead_zext16 (b : Byte) (s : State) : ramRead (zext16 b) s = s.mem.ramByte b.toNat := by
  have hindex : ramIndex (zext16 b) = b.toNat := by
    rw [ramIndex, zext16_eq_ofNat, BitVec.toNat_ofNat]
    omega
  rw [ramRead, hindex]

/-- The page of an address is its number divided by 256 (R16). -/
theorem pageCross_eq (base ea : Word) : pageCross base ea = decide (ea.toNat / 256 ≠ base.toNat / 256) := by
  rw [← toNat_hiByte, ← toNat_hiByte, pageCross, bne, beq_eq_decide, ← decide_not, decide_eq_decide, BitVec.toNat_ne_iff_ne]
  exact ne_comm

/-- A base plus an index on numbers, with its page-cross bit (R134, R135, R138). -/
theorem indexed_eq (base : Word) (index : Byte) :
    indexed base index =
      ⟨BitVec.ofNat 16 ((base.toNat + index.toNat) % 0x10000),
        decide ((base.toNat + index.toNat) % 0x10000 / 256 ≠ base.toNat / 256)⟩ := by
  have hsum : (base + zext16 index).toNat = (base.toNat + index.toNat) % 0x10000 := by
    rw [BitVec.toNat_add, zext16_eq_ofNat, BitVec.toNat_ofNat]
    omega
  rw [indexed, pageCross_eq, hsum, ← hsum, BitVec.ofNat_toNat, BitVec.setWidth_eq]

/-- The number at `z` and the byte after it in page zero, low byte first, the second one modulo 256 (R137, R138, D10). -/
def pagePointer (s : State) (z : Nat) : Nat :=
  (s.mem.ramByte ((z + 1) % 256)).toNat * 256 + (s.mem.ramByte (z % 256)).toNat

/-- The pointer an indirect mode reads in page zero. -/
theorem toNat_joinBytes_ramRead (z : Byte) (s : State) :
    (joinBytes (ramRead (zext16 (z + 1)) s) (ramRead (zext16 z) s)).toNat = pagePointer s z.toNat := by
  have hnext : (z + 1).toNat = (z.toNat + 1) % 256 := BitVec.toNat_add z 1
  rw [toNat_joinBytes, ramRead_zext16, ramRead_zext16, hnext, pagePointer, Nat.mod_eq_of_lt z.isLt]

end Sys2Proof.Machine

namespace Sys2Proof.Spec

open Sys2Proof.Machine

/-- Settles O7: each mode by its rule, on numbers. -/
theorem effectiveAddresses : Obligations.EffectiveAddresses := by
  intro s b w x y pointer plain crossing
  have hx : (b + s.cpu.x).toNat = (b.toNat + x) % 256 := BitVec.toNat_add b s.cpu.x
  have hplain : ∀ ea : Word, (.next (direct ea, s) : Result (Effective × State)) = plain ea.toNat := by
    intro ea
    simp only [plain, direct, BitVec.ofNat_toNat, BitVec.setWidth_eq]
  have hzero : ∀ z : Byte, (.next (direct (zext16 z), s) : Result (Effective × State)) = plain z.toNat := by
    intro z
    rw [zext16_eq_ofNat, direct]
  have hindexed : ∀ (base : Word) (i : Byte),
      (.next (indexed base i, s) : Result (Effective × State)) = crossing base.toNat i.toNat := by
    intro base i
    rw [indexed_eq]
  refine ⟨hzero b, ?_, ?_, hplain w, hindexed w s.cpu.x, hindexed w s.cpu.y, ?_, ?_, by simp [Operand.mode, Mode.length],
    by simp [Operand.mode, Mode.length]⟩
  · rw [effective_zpx, hzero, hx]
  · rw [effective_zpy, hzero, BitVec.toNat_add]
  · rw [effective_izx, hplain, toNat_joinBytes_ramRead, hx]
    rfl
  · rw [effective_izy, hindexed, toNat_joinBytes_ramRead]
    rfl

end Sys2Proof.Spec
end

section
/-! SUPPORT. The instruction fetch and the step at an instruction boundary (O6, O34): the fetch as a run of bus reads, the
order of interrupts, and the reads that have no effect or that stop the step (30_encoding.md R123; 49_dma_clock.md R401,
R402). -/

namespace Sys2Proof.Machine

open Sys2Proof.Spec

/-! ### The order at an instruction boundary -/

theorem cpuStep_nmi {s : State} (h : s.cpu.nmiPending = true) : cpuStep s = nmiEntry s := if_pos h

theorem cpuStep_irq {s : State} (hnmi : s.cpu.nmiPending = false) (hline : s.irqLine = true) (hi : s.cpu.p.i = false) :
    cpuStep s = irqEntry s := by
  simp [cpuStep, hnmi, hline, hi]

theorem cpuStep_instruction {s : State} (hnmi : s.cpu.nmiPending = false) (hirq : s.irqLine = false ∨ s.cpu.p.i = true) :
    cpuStep s = runInstruction s := by
  rcases hirq with h | h <;> simp [cpuStep, hnmi, h]

/-! ### Runs of bus reads -/

/-- `n` bus reads from address `a` on (R81, R103), with the bytes in ascending order. -/
def readBytes : Nat → Word → State → Result (List Byte × State)
  | 0, _, s => .next ([], s)
  | n + 1, a, s => andThen (memRead a s) fun b => andThen (readBytes n (plus a 1) b.2) fun r => .next (b.1 :: r.1, r.2)

theorem plus_zero (a : Word) : plus a 0 = a := by simp [plus]

theorem plus_plus (a : Word) (m n : Nat) : plus (plus a m) n = plus a (m + n) := by
  apply BitVec.eq_of_toNat_eq
  simp only [plus, BitVec.toNat_ofNat]
  omega

theorem plus_eq_add (a : Word) (n : Nat) : plus a n = a + BitVec.ofNat 16 n := by
  rw [plus, BitVec.ofNat_add, BitVec.ofNat_toNat, BitVec.setWidth_eq]

/-- A run of reads goes on where the reads of its first bytes end. -/
theorem readBytes_of_fetchReads {bytes : List Byte} {a : Word} {s t : State} (h : FetchReads bytes a s t) (n : Nat) :
    readBytes (bytes.length + n) a s =
      andThen (readBytes n (plus a bytes.length) t) fun r => .next (bytes ++ r.1, r.2) := by
  induction bytes generalizing a s with
  | nil =>
    cases h
    simp only [List.length_nil, Nat.zero_add, plus_zero, List.nil_append]
    cases readBytes n a t <;> rfl
  | cons b bytes ih =>
    obtain ⟨u, hu, h⟩ := h
    rw [List.length_cons, Nat.add_right_comm, readBytes, hu, andThen_next, ih h, plus_plus, Nat.add_comm 1, andThen_assoc]
    rfl

theorem readBytes_eq_next {bytes : List Byte} {a : Word} {s t : State} (h : FetchReads bytes a s t) :
    readBytes bytes.length a s = .next (bytes, t) := by
  simpa [readBytes] using readBytes_of_fetchReads h 0

/-- Bus reads in a row have the frame of one. -/
theorem fetchReads_frame {bytes : List Byte} {a : Word} {s t : State} (h : FetchReads bytes a s t) : BusFrame s t := by
  induction bytes generalizing a s with
  | nil => cases h; exact BusFrame.refl t
  | cons b bytes ih =>
    obtain ⟨u, hu, h⟩ := h
    exact (memRead_frame hu).trans (ih h)

/-- In the RAM and the PRG window a read gives the byte there and has no effect. -/
theorem memRead_storedByte {a : Word} (h : InRam a ∨ InPrg a) (s : State) : memRead a s = .next (storedByte a s, s) := by
  rcases h with h | h
  · rw [memRead_inRam h, storedByte, if_pos h]
    rfl
  · have hram : ¬a.toNat ≤ 0x1FFF := by simp only [InPrg] at h; omega
    have hhole : ¬a.toNat ≤ 0x7FFF := Nat.not_le_of_lt h
    rw [memRead_inPrg h, storedByte, if_neg hram, if_neg hhole]
    rfl

theorem fetchReads_storedByte {n : Nat} {a : Word} {s : State}
    (h : ∀ k, k < n → InRam (plus a k) ∨ InPrg (plus a k)) :
    FetchReads ((List.range n).map fun k => storedByte (plus a k) s) a s s := by
  induction n generalizing a with
  | zero => rfl
  | succ n ih =>
    have hfirst : memRead a s = .next (storedByte (plus a 0) s, s) := by
      have := memRead_storedByte (h 0 n.succ_pos) s
      rwa [plus_zero] at this ⊢
    have hrest := ih (a := plus a 1) fun k hk => by
      rw [plus_plus, Nat.add_comm]
      exact h (k + 1) (Nat.succ_lt_succ hk)
    simp only [plus_plus, Nat.add_comm 1] at hrest
    rw [List.range_succ_eq_map, List.map_cons, List.map_map]
    exact ⟨s, hfirst, hrest⟩

/-! ### Reads that stop -/

/-- "The PPU is rendering", in the terms of the statements (R317). -/
theorem isRendering_iff (s : State) : s.ppu.isRendering s.params = true ↔ Rendering s := by
  simp [Ppu.isRendering, Ppu.rendering, Ppu.onRenderLine]

theorem memRead_unmapped {a : Word} {s : State} (h : Unmapped a s) :
    memRead a s = .fault (.addressOutOfRange a .read s.cpu.pc) := by
  rw [memRead_inHole h.1, holeRead_fault h.2]

theorem memRead_dataPort_refused {a : Word} {s : State} (h : AtPort 7 a) (hs : Rendering s) :
    memRead a s = .refused (.portAccessWhileRendering 7) := by
  have hdata : portRead (BitVec.ofNat 3 7) s = readData s := rfl
  rw [memRead_inPorts h.1, portOf_eq_ofNat, h.2, hdata, readData, if_pos ((isRendering_iff s).mpr hs)]

/-! ### The fetch -/

/-- What a fetch answers when it has read its bytes: the instruction they decode to (R124). -/
def decodeFetched (bytes : List Byte) (s : State) : Result (Instr × State) :=
  match decode bytes with
  | .ok (i, _) => .next (i, s)
  | .error _ => .fault (.configurationError bytes.head? s.cpu.pc)

theorem opcodeLength_cases (op : Byte) : opcodeLength op = 1 ∨ opcodeLength op = 2 ∨ opcodeLength op = 3 := by
  cases h : lookupOpcode op with
  | none => exact .inl (opcodeLength_undefined h)
  | some r =>
    have := r.mode.length_pos
    have := r.mode.length_le
    rw [opcodeLength_of_lookup h]
    omega

/-- A fetch is the read of the opcode byte at PC, then those of the bytes it calls for, then the decoding. -/
theorem fetch_eq (s : State) :
    fetch s = andThen (memRead s.cpu.pc s) fun op =>
      andThen (readBytes (opcodeLength op.1 - 1) (plus s.cpu.pc 1) op.2) fun r => decodeFetched (op.1 :: r.1) r.2 := by
  have hone : plus s.cpu.pc 1 = s.cpu.pc + 1 := plus_eq_add _ 1
  have htwo : plus (s.cpu.pc + 1) 1 = s.cpu.pc + 2 := by
    rw [← hone, plus_plus]
    exact plus_eq_add _ 2
  unfold fetch
  dsimp only
  congr 1
  funext op
  rcases opcodeLength_cases op.1 with h | h | h <;>
    simp only [h, readBytes, hone, htwo, andThen_assoc, andThen_next, Nat.add_one_sub_one] <;> rfl

theorem opcodeLength_of_decode {op : Byte} {rest : List Byte} {i : Instr} (h : decode (op :: rest) = .ok (i, [])) :
    opcodeLength op = rest.length + 1 := by
  obtain ⟨hop, -, rfl⟩ | ⟨r, bytes, hr, hlength, rfl, -⟩ := decode_eq_ok.mp h
  · exact opcodeLength_undefined hop
  · rw [opcodeLength_of_lookup hr, List.append_nil, hlength]

/-- Bytes at PC that are one instruction are fetched as that instruction. -/
theorem fetch_of_decode {bytes : List Byte} {i : Instr} {s t : State} (hdecode : decode bytes = .ok (i, []))
    (h : FetchReads bytes s.cpu.pc s t) : fetch s = .next (i, t) := by
  cases bytes with
  | nil => cases hdecode
  | cons op rest =>
    obtain ⟨u, hop, h⟩ := h
    rw [fetch_eq, hop, andThen_next, opcodeLength_of_decode hdecode, Nat.add_sub_cancel, readBytes_eq_next h,
      andThen_next, decodeFetched, hdecode]

/-- Where the bytes read so far are no whole instruction, the fetch goes on with the read of the next one. -/
theorem fetch_of_not_decode {bytes : List Byte} {s t : State} (hdecode : ∀ r, decode bytes ≠ .ok r)
    (h : FetchReads bytes s.cpu.pc s t) :
    ∃ f, fetch s = andThen (memRead (plus s.cpu.pc bytes.length) t) f := by
  cases bytes with
  | nil =>
    cases h
    rw [List.length_nil, plus_zero]
    exact ⟨_, fetch_eq s⟩
  | cons op rest =>
    obtain ⟨u, hop, h⟩ := h
    have hshort : rest.length + 1 < opcodeLength op :=
      Nat.lt_of_not_le fun hlong => (exists_decode_iff.mpr hlong).elim hdecode
    obtain ⟨n, hn⟩ : ∃ n, opcodeLength op - 1 = rest.length + (n + 1) := ⟨opcodeLength op - rest.length - 2, by omega⟩
    rw [fetch_eq, hop, andThen_next, hn, readBytes_of_fetchReads h, plus_plus, Nat.add_comm 1, readBytes,
      andThen_assoc, andThen_assoc]
    exact ⟨_, rfl⟩

/-! ### The step -/

/-- At a boundary with no interrupt to take a step counts the CPU cycle, runs the instruction at PC and ends the tick
(R123, R401, R402). -/
theorem step_of_aboutToFetch {s : State} (h : AboutToFetch s) :
    step s = andThen (runInstruction (s.setCyc (s.cpu.cyc + 1))) fun u => .next (endTick u) := by
  obtain ⟨⟨hrunning, hadmitted, hmaster, hstall⟩, hnmi, hirq⟩ := h
  have hirq : s.irqLine = false ∨ s.cpu.p.i = true := by
    cases hline : s.irqLine with
    | false => exact .inl rfl
    | true => exact .inr (hirq hline)
  have hcycle : cpuCycle s = cpuStep (s.setCyc (s.cpu.cyc + 1)) := by simp [cpuCycle, hstall]
  have htick : isCpuTick s = true := by simp [isCpuTick, hmaster]
  rw [step, hrunning]
  dsimp only
  rw [runTick_admitted hadmitted, if_pos htick, hcycle,
    cpuStep_instruction (s := s.setCyc (s.cpu.cyc + 1)) hnmi hirq]

end Sys2Proof.Machine

namespace Sys2Proof.Spec

open Sys2Proof.Machine

/-- Settles O34: the three branches of the CPU step. -/
theorem interruptPriority : Obligations.InterruptPriority :=
  fun _ => ⟨cpuStep_nmi, cpuStep_irq, cpuStep_instruction⟩

/-- Settles O6: the step as a fetch and an execution, and the fetch by the bytes it reads. -/
theorem stepRunsTheDecodedInstruction : Obligations.StepRunsTheDecodedInstruction := by
  intro s h counted executed
  have hstep : step s = andThen (andThen (fetch counted) fun r => exec r.1 r.2) fun u => .next (endTick u) :=
    step_of_aboutToFetch h
  have hexecuted : ∀ (i : Instr) (bytes : List Byte) (t : State), decode bytes = .ok (i, []) →
      FetchReads bytes s.cpu.pc counted t → step s = executed i t := by
    intro i bytes t hdecode hreads
    rw [hstep, fetch_of_decode hdecode hreads]
    rfl
  refine ⟨hexecuted, fun i hwindow hdecode => ?_, fun bytes t hdecode hreads => ?_⟩
  · exact hexecuted i _ counted hdecode (fetchReads_storedByte (s := counted) hwindow)
  · obtain ⟨f, hfetch⟩ := fetch_of_not_decode (s := counted) hdecode hreads
    have hpc : t.cpu.pc = s.cpu.pc := by rw [(fetchReads_frame hreads).cpu]
    rw [hstep, hfetch]
    refine ⟨fun hunmapped => ?_, fun hport hrendering => ?_⟩
    · rw [memRead_unmapped hunmapped, hpc]
      rfl
    · rw [memRead_dataPort_refused hport hrendering]
      rfl

end Sys2Proof.Spec
end

section
/-! SUPPORT. The rules of the instructions that read an operand and of those that store a byte (O8, O9), once for every such
instruction: the base cycles of a table, the bus accesses that have a meaning and those that have none, the operand, and from
these the step (20_memory.md R71 to R78; 30_encoding.md R125, R150, R152; 40_load_store.md R200). -/

namespace Sys2Proof.Machine

open Sys2Proof.Spec

/-! ### Base cycles -/

/-- In a list of pairs whose keys differ, the value looked up for a key is the one paired with it. -/
theorem lookup_of_mem {α β : Type} [BEq α] [LawfulBEq α] {l : List (α × β)} {k : α} {b : β}
    (hkeys : (l.map Prod.fst).Nodup) (h : (k, b) ∈ l) : l.lookup k = some b := by
  obtain ⟨before, after, rfl⟩ := List.append_of_mem h
  rw [List.map_append, List.nodup_append] at hkeys
  obtain ⟨-, -, hdisjoint⟩ := hkeys
  refine List.lookup_eq_some_iff.mpr ⟨before, after, rfl, fun p hp => bne_iff_ne.mpr (Ne.symm ?_)⟩
  exact hdisjoint p.1 (List.mem_map_of_mem hp) k List.mem_cons_self

/-- The spec's `CYC` is the cycles column of the Instruction Table (R150, R152). -/
theorem cycles_spec_of_mem {mn : Mnemonic} {e : Entry} (h : e ∈ mn.entries) : Params.spec.cycles e.opcode = e.cycles := by
  have hkeys : (Params.spec.cyc.map Prod.fst).Nodup := by
    have hopcodes : Params.spec.cyc.map Prod.fst = opcodeTable.map Row.opcode := by
      simp [Params.spec, opcodeTable, List.map_flatMap, Function.comp_def]
    exact hopcodes ▸ opcodeTable_opcodes_nodup
  have hmem : (e.opcode, e.cycles) ∈ Params.spec.cyc :=
    List.mem_flatMap.mpr ⟨mn, mn.mem_all, List.mem_map_of_mem (f := fun e : Entry => (e.opcode, e.cycles)) h⟩
  rw [Params.cycles, lookup_of_mem hkeys hmem, Option.getD_some]

/-- A table that is the Instruction Table's for the mnemonic gives its encodings. -/
theorem encodings_of_entries {mn : Mnemonic} {table : List (Mode × Byte × Nat)}
    (h : mn.entries.map (fun e => (e.mode, e.opcode, e.cycles)) = table) : Encodings mn table := by
  refine ⟨h, fun row hrow => ?_⟩
  rw [← h] at hrow
  obtain ⟨e, he, rfl⟩ := List.mem_map.mp hrow
  exact cycles_spec_of_mem he

/-- The base cycles of a mode are `CYC` of the opcode byte the mnemonic has at that mode (R150). -/
theorem baseCycles_eq {mn : Mnemonic} {table : List (Mode × Byte × Nat)} {mode : Mode} {e : Entry}
    (henc : Encodings mn table) (he : tableEntry mn mode = some e) (k : Params) :
    baseCycles k table mode = k.cycles e.opcode := by
  obtain ⟨htable, -⟩ := henc
  obtain ⟨hmem, rfl⟩ := tableEntry_eq_some.mp he
  have hkeys : (table.map Prod.fst).Nodup := by
    rw [← htable, List.map_map]
    exact mn.modes_eq ▸ mn.modes_nodup
  have hrow : (e.mode, e.opcode, e.cycles) ∈ table :=
    htable ▸ List.mem_map_of_mem (f := fun e : Entry => (e.mode, e.opcode, e.cycles)) hmem
  rw [baseCycles, lookup_of_mem hkeys hrow, Option.map_some, Option.getD_some]

/-- At a mode of the mnemonic a shape runs with the base cycles of the table. -/
theorem withEntry_eq {mn : Mnemonic} {table : List (Mode × Byte × Nat)} {mode : Mode} (henc : Encodings mn table)
    (hmode : mode ∈ mn.modes) (s : State) (run : Nat → Result State) :
    withEntry mn mode s run = run (baseCycles s.params table mode) := by
  obtain ⟨e, he⟩ := Mnemonic.mem_modes.mp hmode
  rw [withEntry_some he, baseCycles_eq henc he]

/-- The end of an instruction, in the terms of the statements (R25, R402). -/
theorem advance_eq (len n : Nat) (s : State) : advance len n s = .next (retired (plus s.cpu.pc len) n s) := by
  rw [plus_eq_add]
  rfl

/-! ### Bus accesses that have a meaning -/

section
variable {a : Word} {s : State}

/-- An address of the hole that is mapped has the array behind it (R78). -/
theorem holePolicy_of_mapped (ha : InHole a) (h : ¬Unmapped a s) : s.params.holePolicy = .ram := by
  cases hpolicy : s.params.holePolicy with
  | fault => exact absurd ⟨ha, hpolicy⟩ h
  | ram => rfl

/-- The port an address reaches, as the statements name it. -/
theorem atPort_of_eq {k : Nat} (ha : InPorts a) (h : (portOf a).toNat = k) : AtPort k a := h ▸ atPort_of_portOf ha

/-- Only the data port can refuse a read, and only while the PPU is rendering (R317). -/
theorem exists_portRead {p : BitVec 3} (h : ¬(p.toNat = 7 ∧ Rendering s)) : ∃ r, portRead p s = .next r := by
  unfold portRead
  split_ifs with h2 h4 h7
  · exact ⟨_, rfl⟩
  · exact ⟨_, rfl⟩
  · have hidle : ¬s.ppu.isRendering s.params = true := fun hr => h ⟨h7 ▸ rfl, (isRendering_iff s).mp hr⟩
    rw [readData, if_neg hidle]
    dsimp only
    split_ifs <;> exact ⟨_, rfl⟩
  · exact ⟨_, rfl⟩

/-- Only ports 4 and 7 can refuse a write, and only while the PPU is rendering (R317). -/
theorem exists_portWrite {p : BitVec 3} (h : ¬((p.toNat = 4 ∨ p.toNat = 7) ∧ Rendering s)) (v : Byte) :
    ∃ t, portWrite p v s = .next t := by
  have hidle (hp : p.toNat = 4 ∨ p.toNat = 7) : ¬s.ppu.isRendering s.params = true :=
    fun hr => h ⟨hp, (isRendering_iff s).mp hr⟩
  rcases port_cases p with rfl | rfl | rfl | rfl | rfl | rfl | rfl | rfl
  · exact ⟨_, rfl⟩
  · exact ⟨_, rfl⟩
  · exact ⟨_, rfl⟩
  · exact ⟨_, rfl⟩
  · exact ⟨_, if_neg (hidle (.inl rfl))⟩
  · exact ⟨_, rfl⟩
  · exact ⟨_, rfl⟩
  · exact ⟨_, if_neg (hidle (.inr rfl))⟩

theorem exists_memRead (h : Readable a s) : ∃ r, memRead a s = .next r := by
  obtain ⟨hmapped, hdata⟩ := h
  rcases window_cases a with ha | ha | rfl | ha | ha
  · exact ⟨_, memRead_inRam ha s⟩
  · rw [memRead_inPorts ha]
    exact exists_portRead fun ⟨hp, hr⟩ => hdata ⟨atPort_of_eq ha hp, hr⟩
  · exact ⟨_, memRead_dmaPort s⟩
  · rw [memRead_inHole ha]
    exact ⟨_, holeRead_ram (holePolicy_of_mapped ha hmapped) a⟩
  · exact ⟨_, memRead_inPrg ha s⟩

theorem exists_memWrite (h : Writable a s) (v : Byte) : ∃ t, memWrite a v s = .next t := by
  obtain ⟨hmapped, hdma, hports⟩ := h
  rcases window_cases a with ha | ha | ha | ha | ha
  · exact ⟨_, memWrite_inRam ha v s⟩
  · rw [memWrite_inPorts ha]
    exact exists_portWrite (fun ⟨hp, hr⟩ => hports ⟨hp.imp (atPort_of_eq ha) (atPort_of_eq ha), hr⟩) v
  · exact absurd ha hdma
  · rw [memWrite_inHole ha]
    exact ⟨_, holeWrite_ram (holePolicy_of_mapped ha hmapped) a v⟩
  · exact ⟨_, memWrite_inPrg ha v s⟩

theorem memWrite_unmapped (h : Unmapped a s) (v : Byte) :
    memWrite a v s = .fault (.addressOutOfRange a .write s.cpu.pc) := by
  rw [memWrite_inHole h.1, holeWrite_fault h.2]

/-- A port read leaves the CPU: reading the status clears `vblank`, so it raises no NMI edge (R303, R307). -/
theorem portRead_cpu {p : BitVec 3} {r : Byte × State} (h : portRead p s = .next r) : r.2.cpu = s.cpu := by
  unfold portRead at h
  split_ifs at h
  · cases h
    simp [readStatus, updateNmi, draw]
  · cases h
    unfold readOamData
    split_ifs <;> rfl
  · unfold readData at h
    dsimp only at h
    split_ifs at h <;> cases h <;> rfl
  · cases h
    rfl

/-- A bus read leaves the CPU. -/
theorem memRead_cpu {r : Byte × State} (h : memRead a s = .next r) : r.2.cpu = s.cpu := by
  by_cases hports : InPorts a
  · rw [memRead_inPorts hports] at h
    exact portRead_cpu h
  · by_cases hdma : a = 0x4014
    · subst hdma
      cases h
      rfl
    · rw [memRead_pure h hports hdma]

end

/-! ### Operands -/

/-- The modes of the instructions that access memory at an effective address (R129 to R131, R133 to R135, R137, R138). -/
abbrev addressModes : List Mode := [.zp, .zpx, .zpy, .abs, .abx, .aby, .izx, .izy]

/-- Such a mode always has its effective address, found without an effect on the state. -/
theorem exists_effective {o : Operand} (h : o.mode ∈ addressModes) (s : State) : ∃ e, effective o s = .next (e, s) := by
  cases o with
  | zp | zpx | zpy | abs | abx | aby => exact ⟨_, rfl⟩
  | izx b => exact ⟨_, effective_izx b s⟩
  | izy b => exact ⟨_, effective_izy b s⟩
  | imp | acc | imm | rel | ind => simp [Operand.mode] at h

/-- An operand in memory is read at its effective address (R125). -/
theorem readOperand_mem {o : Operand} (ho : ∀ b, o ≠ .imm b) (s : State) :
    readOperand o s = andThen (effective o s) fun e =>
      andThen (memRead e.1.ea e.2) fun r => .next { value := r.1, px := e.1.px, after := r.2 } := by
  unfold readOperand
  split
  · exact absurd rfl (ho _)
  · rfl

/-- What the statements call the operand is what the model reads. -/
theorem readOperand_of_readsOperand {o : Operand} {s t : State} {m : Byte} {px : Bool} (h : ReadsOperand o s m px t) :
    readOperand o s = .next { value := m, px := px, after := t } := by
  unfold ReadsOperand at h
  split at h
  · obtain ⟨rfl, rfl, rfl⟩ := h
    rfl
  next ho =>
    obtain ⟨e, he, rfl, hm⟩ := h
    rw [readOperand_mem ho, he, andThen_next, hm, andThen_next]

/-- Where the operand can be read it is read, and the CPU is left. -/
theorem exists_readsOperand {o : Operand} {s : State} (h : OperandReadable o s) :
    ∃ m px t, ReadsOperand o s m px t ∧ t.cpu = s.cpu := by
  unfold OperandReadable at h
  unfold ReadsOperand
  split at h
  · exact ⟨_, false, s, ⟨rfl, rfl, rfl⟩, rfl⟩
  · obtain ⟨e, he, hreadable⟩ := h
    obtain ⟨r, hr⟩ := exists_memRead hreadable
    exact ⟨r.1, e.px, r.2, ⟨e, he, rfl, hr⟩, memRead_cpu hr⟩

/-- In the hole the read of the operand is the fault of R78. -/
theorem readOperand_unmapped {o : Operand} {s : State} {e : Effective} (he : effective o s = .next (e, s))
    (h : Unmapped e.ea s) : readOperand o s = .fault (.addressOutOfRange e.ea .read s.cpu.pc) := by
  have ho : ∀ b, o ≠ .imm b := by
    rintro b rfl
    cases he
  rw [readOperand_mem ho, he, andThen_next, memRead_unmapped h, andThen_fault]

/-! ### The rules -/

/-- `SetZN` on numbers (R14). -/
theorem setZN_eq_withZN (m : Byte) (p : Flags) : p.setZN m = withZN m p := by
  have hz : (m == 0) = decide (m.toNat = 0) := by
    rw [beq_eq_decide, decide_eq_decide]
    exact BitVec.toNat_inj.symm
  have hn : m.getLsbD 7 = decide (0x80 ≤ m.toNat) := (BitVec.msb_eq_getLsbD_last m).symm.trans (BitVec.msb_eq_decide m)
  rw [Flags.setZN, withZN, hz, hn]

theorem State.setZN_eq (s : State) (m : Byte) :
    s.setZN m = { s with cpu := { s.cpu with p := withZN m s.cpu.p } } := by
  rw [State.setZN, setZN_eq_withZN]
  rfl

section
variable {i : Operand → Instr} {mn : Mnemonic} {table : List (Mode × Byte × Nat)}

/-- The step of an instruction that has the reading shape from one state, with a work `f` that changes the CPU by `effect`
and leaves PC. -/
theorem readingStep_of_reading {effect : Byte → Cpu → Cpu} {f : Byte → State → State} {s : State} {o : Operand}
    (henc : Encodings mn table) (hmode : o.mode ∈ mn.modes) (hexec : exec (i o) s = reading mn o f s)
    (hf : ∀ m u, f m u = { u with cpu := effect m u.cpu }) (hpc : ∀ m c, (effect m c).pc = c.pc) :
    ReadingStep i table effect s o := by
  rw [ReadingStep, hexec, reading, withEntry_eq henc hmode]
  refine ⟨fun hreadable => ?_, fun e he hunmapped => ?_⟩
  · obtain ⟨m, px, t, hreads, hcpu⟩ := exists_readsOperand hreadable
    refine ⟨m, px, t, hreads, hcpu, ?_⟩
    rw [readOperand_of_readsOperand hreads, andThen_next, advance_eq, hf]
    dsimp only
    rw [hpc, hcpu]
  · rw [readOperand_unmapped he hunmapped, andThen_fault]

/-- The rule of an instruction that has the reading shape. -/
theorem readingRule_of_reading {effect : Byte → Cpu → Cpu} {f : Byte → State → State}
    (henc : Encodings mn table) (hparts : ∀ o, (i o).parts = some (mn, o))
    (hexec : ∀ o s, exec (i o) s = reading mn o f s)
    (hf : ∀ m u, f m u = { u with cpu := effect m u.cpu }) (hpc : ∀ m c, (effect m c).pc = c.pc) :
    ReadingRule i mn table effect :=
  ⟨henc, fun s o hwf =>
    readingStep_of_reading henc ((Instr.wellFormed_of_parts (hparts o)).mp hwf) (hexec o s) hf hpc⟩

/-- The rule of an instruction that has the storing shape, at modes that have an effective address: the write leaves PC, and
away from the DMA port it adds no cycles. -/
theorem storingRule_of_storing {value : Cpu → Byte}
    (henc : Encodings mn table) (hparts : ∀ o, (i o).parts = some (mn, o)) (hmodes : mn.modes ⊆ addressModes)
    (hexec : ∀ o s, exec (i o) s = storing mn o (value s.cpu) s) : StoringRule i mn table value := by
  refine ⟨henc, fun s o hwf => ?_⟩
  have hmode := (Instr.wellFormed_of_parts (hparts o)).mp hwf
  obtain ⟨e, he⟩ := exists_effective (hmodes hmode) s
  rw [hexec, storing, withEntry_eq henc hmode, he, andThen_next]
  refine ⟨e, rfl, fun hwritable => ?_, fun hunmapped => ?_⟩
  · have ⟨_, hea, _⟩ := hwritable
    obtain ⟨t, ht⟩ := exists_memWrite hwritable (value s.cpu)
    have hcpu := (memWrite_frame ht).cpu
    have hdma : dmaExtra e.ea (baseCycles s.params table o.mode) t = 0 := if_neg hea
    refine ⟨t, ht, hcpu, ?_⟩
    rw [ht, andThen_next, advance_eq, hdma, Nat.add_zero, hcpu]
  · rw [memWrite_unmapped hunmapped, andThen_fault]

end

end Sys2Proof.Machine

namespace Sys2Proof.Spec

open Sys2Proof.Machine

/-- Settles O8: each load has the reading shape; its work is one register, Z and N. -/
theorem loadsSetTheRegisterAndZN : Obligations.LoadsSetTheRegisterAndZN :=
  ⟨readingRule_of_reading (f := fun m s => (s.setA m).setZN m) (encodings_of_entries rfl) (fun _ => rfl)
      (fun _ _ => rfl) (fun m u => (u.setA m).setZN_eq m) fun _ _ => rfl,
    readingRule_of_reading (f := fun m s => (s.setX m).setZN m) (encodings_of_entries rfl) (fun _ => rfl)
      (fun _ _ => rfl) (fun m u => (u.setX m).setZN_eq m) fun _ _ => rfl,
    readingRule_of_reading (f := fun m s => (s.setY m).setZN m) (encodings_of_entries rfl) (fun _ => rfl)
      (fun _ _ => rfl) (fun m u => (u.setY m).setZN_eq m) fun _ _ => rfl⟩

/-- Settles O9: each store has the storing shape, and its modes have an effective address. -/
theorem storesWriteTheRegister : Obligations.StoresWriteTheRegister :=
  ⟨storingRule_of_storing (encodings_of_entries rfl) (fun _ => rfl) (by decide) fun _ _ => rfl,
    storingRule_of_storing (encodings_of_entries rfl) (fun _ => rfl) (by decide) fun _ _ => rfl,
    storingRule_of_storing (encodings_of_entries rfl) (fun _ => rfl) (by decide) fun _ _ => rfl⟩

end Sys2Proof.Spec
end

section
/-! SUPPORT. The one-byte instructions and the stack (O14 to O17): the rule of the implied shape, the stack byte on numbers
(00_scope.md R13, R24), the status byte (10_state.md R27), and the rules of a push and of a pull (41_transfer_stack.md). -/

namespace Sys2Proof.Machine

open Sys2Proof.Spec

/-! ### The implied shape -/

section
variable {i : Instr} {mn : Mnemonic} {opcode : Byte} {cycles : Nat}

/-- The opcode byte of an implied instruction decodes alone (R122). -/
theorem decode_implied (he : tableEntry mn .imp = some ⟨.imp, opcode, cycles⟩) (hparts : i.parts = some (mn, .imp)) :
    decode [opcode] = .ok (i, []) := by
  have hwf : i.wellFormed = true := (Instr.wellFormed_of_parts hparts).mpr (Mnemonic.mem_modes.mpr ⟨_, he⟩)
  have hdecode := decode_encode hwf []
  rwa [encode_of_parts hparts he] at hdecode

/-- The step of the implied shape, with a work that leaves PC (R25, R402). -/
theorem implied_eq_retired (he : tableEntry mn .imp = some ⟨.imp, opcode, cycles⟩) {f : State → State} {s : State}
    (hpc : (f s).cpu.pc = s.cpu.pc) :
    implied mn f s = .next (retired (plus s.cpu.pc 1) (s.params.cycles opcode) (f s)) := by
  rw [implied, withEntry_some he, advance_eq, hpc]

/-- The rule of an instruction that has the implied shape, with a work `f` that changes the CPU by `effect` and leaves PC. -/
theorem impliedRule_of_implied {f : State → State} {effect : Cpu → Cpu}
    (he : tableEntry mn .imp = some ⟨.imp, opcode, cycles⟩) (hparts : i.parts = some (mn, .imp))
    (hexec : ∀ s, exec i s = implied mn f s) (hf : ∀ s, f s = { s with cpu := effect s.cpu })
    (hpc : ∀ c, (effect c).pc = c.pc) : ImpliedRule i opcode cycles effect := by
  refine ⟨decode_implied he hparts, cycles_spec_of_mem (tableEntry_eq_some.mp he).1, fun s => ?_⟩
  have hfpc : (f s).cpu.pc = s.cpu.pc := by rw [hf, hpc]
  rw [hexec, implied_eq_retired he hfpc, hf]

end

/-! ### The stack byte -/

/-- The `ram` index that `0x0100 | (SP + k)` reaches (R13, R24). -/
theorem ramIndex_stackAddr_add (s : State) (k : Nat) :
    ramIndex (stackAddr (s.cpu.sp + BitVec.ofNat 8 k)) = stackIndex s k := by
  rw [ramIndex_stackAddr, stackIndex, BitVec.toNat_add, BitVec.toNat_ofNat, Nat.add_mod_mod]

theorem ramIndex_stackAddr_sp (s : State) : ramIndex (stackAddr s.cpu.sp) = stackIndex s 0 := by
  rw [ramIndex_stackAddr, stackIndex, Nat.add_zero, Nat.mod_eq_of_lt s.cpu.sp.isLt]

/-- The stack byte above SP after a push is the stack byte at SP before it (R13). -/
theorem stackIndex_one_of_sp_pushed {s u : State} (h : u.cpu.sp = BitVec.ofNat 8 (s.cpu.sp.toNat + 255)) :
    stackIndex u 1 = stackIndex s 0 := by
  rw [stackIndex, stackIndex, h, BitVec.toNat_ofNat]
  omega

/-- SP goes down and up again to what it was, modulo 256 (R13). -/
theorem sp_pulled_of_sp_pushed {sp sp' : Byte} (h : sp' = BitVec.ofNat 8 (sp.toNat + 255)) :
    BitVec.ofNat 8 (sp'.toNat + 1) = sp := by
  bv_omega

/-- `Push` on numbers (R13). -/
theorem push_eq (v : Byte) (s : State) :
    push v s = { s with
      cpu := { s.cpu with sp := BitVec.ofNat 8 (s.cpu.sp.toNat + 255) }
      mem := s.mem.putRam (stackIndex s 0) v } := by
  have hsp : s.cpu.sp - 1#8 = BitVec.ofNat 8 (s.cpu.sp.toNat + 255) := by bv_omega
  rw [push, ramWrite, ramIndex_stackAddr_sp, ← hsp]
  rfl

/-- `Pull` on numbers (R13). -/
theorem pull_eq (s : State) :
    pull s = (s.mem.ramByte (stackIndex s 1), s.setSp (BitVec.ofNat 8 (s.cpu.sp.toNat + 1))) := by
  have hsp : s.cpu.sp + 1#8 = BitVec.ofNat 8 (s.cpu.sp.toNat + 1) := by bv_omega
  rw [← ramIndex_stackAddr_add, ← hsp]
  rfl

/-! ### The status byte -/

/-- The status byte that PHP pushes, on numbers (R27, R218). -/
theorem Flags.pushed_eq_statusByte (p : Flags) : p.pushed = statusByte true p := by
  have hbits : ∀ n v b d i z c, Flags.pushed ⟨n, v, b, d, i, z, c⟩ = statusByte true ⟨n, v, b, d, i, z, c⟩ := by decide
  exact hbits p.n p.v p.b p.d p.i p.z p.c

/-- The flags that a status byte restores, on numbers (R27, R220). -/
theorem Flags.unpack_eq_restored (b : Byte) (p : Flags) : p.unpack b = restored b p := by
  have hbit : ∀ k, b.getLsbD k = decide (b.toNat / 2 ^ k % 2 = 1) := fun k => Nat.testBit_eq_decide_div_mod_eq
  simp only [Flags.unpack, restored, hbit, Nat.pow_zero, Nat.div_one, Nat.reducePow]

/-- A status byte gives back the flags it was made from, B where it is still the same: no status byte sets it (R27, R32). -/
theorem restored_statusByte (bit4 : Bool) (p q : Flags) (h : q.b = p.b) : restored (statusByte bit4 p) q = p := by
  have hbits : ∀ bit4 n v b d i z c, restored (statusByte bit4 ⟨n, v, b, d, i, z, c⟩) ⟨n, v, b, d, i, z, c⟩ =
      ⟨n, v, b, d, i, z, c⟩ := by decide
  calc restored (statusByte bit4 p) q = restored (statusByte bit4 p) p := by rw [restored, h, restored]
    _ = p := hbits bit4 p.n p.v p.b p.d p.i p.z p.c

/-! ### The rules of a push and of a pull -/

section
variable {i : Instr} {mn : Mnemonic} {opcode : Byte} {cycles : Nat} {s : State}

/-- The step of an instruction that pushes the byte `value` and does nothing else (R210). -/
theorem exists_exec_push {value : Cpu → Byte} (he : tableEntry mn .imp = some ⟨.imp, opcode, cycles⟩)
    (hexec : exec i s = implied mn (fun s => push (value s.cpu) s) s) :
    ∃ t, exec i s = .next t ∧
      t.cpu = { s.cpu with
        sp := BitVec.ofNat 8 (s.cpu.sp.toNat + 255), pc := plus s.cpu.pc 1, stall := s.params.cycles opcode - 1 } ∧
      RamWrites s t fun k => if k = stackIndex s 0 then some (value s.cpu) else none := by
  rw [implied_eq_retired he rfl, push_eq] at hexec
  refine ⟨_, hexec, rfl, fun k => ?_, ⟨rfl, rfl, rfl, rfl⟩, rfl⟩
  calc (s.mem.putRam (stackIndex s 0) (value s.cpu)).ramByte k
      = if k = stackIndex s 0 then value s.cpu else s.mem.ramByte k := Memory.ramByte_putRam _ _ _ _
    _ = (if k = stackIndex s 0 then some (value s.cpu) else none).getD (s.mem.ramByte k) := by split_ifs <;> rfl

/-- The step of an instruction that pulls a byte `m` and changes the CPU, SP raised, by `effect m` (R210). -/
theorem exec_pull {effect : Byte → Cpu → Cpu} (he : tableEntry mn .imp = some ⟨.imp, opcode, cycles⟩)
    (hexec : exec i s =
      implied mn (fun s => { (pull s).2 with cpu := effect (pull s).1 (pull s).2.cpu }) s)
    (hpc : ∀ m c, (effect m c).pc = c.pc) :
    exec i s = .next (retired (plus s.cpu.pc 1) (s.params.cycles opcode)
      { s with
        cpu := effect (s.mem.ramByte (stackIndex s 1)) { s.cpu with sp := BitVec.ofNat 8 (s.cpu.sp.toNat + 1) } }) := by
  rw [hexec, implied_eq_retired he (hpc _ _), pull_eq]
  rfl

/-- After `t`, which pushed the byte `v` from `s`, a state `u` that has `t`'s SP and the pushed byte gives both back to a
pull: the byte it reads is `v`, and the SP it sets is that of `s` (R13). -/
theorem pulled_eq_pushed {t u : State} {v : Byte} (hsp : t.cpu.sp = BitVec.ofNat 8 (s.cpu.sp.toNat + 255))
    (hram : RamWrites s t fun k => if k = stackIndex s 0 then some v else none) (husp : u.cpu.sp = t.cpu.sp)
    (hbyte : u.mem.ramByte (stackIndex s 0) = t.mem.ramByte (stackIndex s 0)) :
    u.mem.ramByte (stackIndex u 1) = v ∧ BitVec.ofNat 8 (u.cpu.sp.toNat + 1) = s.cpu.sp := by
  have hpushed := husp.trans hsp
  refine ⟨?_, sp_pulled_of_sp_pushed hpushed⟩
  rw [stackIndex_one_of_sp_pushed hpushed, hbyte, hram.ram, if_pos rfl, Option.getD_some]

end

end Sys2Proof.Machine

namespace Sys2Proof.Spec

open Sys2Proof.Machine

/-- Settles O14: each transfer has the implied shape; its work is one register, and Z and N but for TXS. -/
theorem transfersCopyARegister : Obligations.TransfersCopyARegister :=
  ⟨impliedRule_of_implied rfl rfl (fun _ => rfl) (fun s => (s.setX s.cpu.a).setZN_eq s.cpu.a) fun _ => rfl,
    impliedRule_of_implied rfl rfl (fun _ => rfl) (fun s => (s.setY s.cpu.a).setZN_eq s.cpu.a) fun _ => rfl,
    impliedRule_of_implied rfl rfl (fun _ => rfl) (fun s => (s.setA s.cpu.x).setZN_eq s.cpu.x) fun _ => rfl,
    impliedRule_of_implied rfl rfl (fun _ => rfl) (fun s => (s.setA s.cpu.y).setZN_eq s.cpu.y) fun _ => rfl,
    impliedRule_of_implied rfl rfl (fun _ => rfl) (fun s => (s.setX s.cpu.sp).setZN_eq s.cpu.sp) fun _ => rfl,
    impliedRule_of_implied rfl rfl (fun _ => rfl) (fun _ => rfl) fun _ => rfl⟩

/-- Settles O15: both have the implied shape and push one byte, PHP the status byte. -/
theorem pushesWriteTheStack : Obligations.PushesWriteTheStack := by
  refine ⟨⟨decode_implied (mn := .pha) rfl rfl, decode_implied (mn := .php) rfl rfl⟩, encodings_of_entries rfl,
    encodings_of_entries rfl, fun s => ⟨?_, ?_⟩⟩
  · exact exists_exec_push (mn := .pha) (value := fun c => c.a) rfl rfl
  · rw [← Flags.pushed_eq_statusByte]
    exact exists_exec_push (mn := .php) (value := fun c => c.p.pushed) rfl rfl

/-- Settles O16: both have the implied shape and pull one byte, PLA into A, PLP into the flags. -/
theorem pullsReadTheStack : Obligations.PullsReadTheStack := by
  refine ⟨⟨decode_implied (mn := .pla) rfl rfl, decode_implied (mn := .plp) rfl rfl⟩, encodings_of_entries rfl,
    encodings_of_entries rfl, fun s => ⟨?_, ?_⟩⟩
  · simp only [← setZN_eq_withZN]
    exact exec_pull (mn := .pla) (effect := fun m c => { c with a := m, p := c.p.setZN m }) rfl rfl fun _ _ => rfl
  · simp only [← Flags.unpack_eq_restored]
    exact exec_pull (mn := .plp) (effect := fun m c => { c with p := c.p.unpack m }) rfl rfl fun _ _ => rfl

/-- Settles O17: SP goes down and up again, so the byte pulled is the one pushed, from the rules of the pushes (O15) and of
the pulls (O16). -/
theorem pullsUndoPushes : Obligations.PullsUndoPushes := by
  intro s
  obtain ⟨-, -, -, hpush⟩ := pushesWriteTheStack
  obtain ⟨-, -, -, hpull⟩ := pullsReadTheStack
  obtain ⟨⟨t, ht, htcpu, htram⟩, ⟨t', ht', htcpu', htram'⟩⟩ := hpush s
  refine ⟨⟨t, ht, fun u husp hbyte => ⟨_, (hpull u).1, ?_⟩⟩, ⟨t', ht', fun u husp hb hbyte => ⟨_, (hpull u).2, ?_⟩⟩⟩
  · exact pulled_eq_pushed (congrArg Cpu.sp htcpu) htram husp hbyte
  · obtain ⟨hstatus, hsp⟩ := pulled_eq_pushed (congrArg Cpu.sp htcpu') htram' husp hbyte
    refine ⟨?_, hsp⟩
    calc restored (u.mem.ramByte (stackIndex u 1)) u.cpu.p
        = restored (statusByte true s.cpu.p) u.cpu.p := by rw [hstatus]
      _ = s.cpu.p := restored_statusByte true s.cpu.p u.cpu.p hb

end Sys2Proof.Spec
end

section
/-! SUPPORT. The compares, the increments and the decrements (O22 to O24): the flags of a compare and the results modulo 256 on
numbers, and the rule of a read-modify-write of memory (42_arithmetic.md R225, R228 to R236). -/

namespace Sys2Proof.Machine

open Sys2Proof.Spec

/-! ### Results on numbers -/

/-- One up, modulo 256 (R231 to R233). -/
theorem ofNat_toNat_add_one (m : Byte) : BitVec.ofNat 8 ((m.toNat + 1) % 256) = m + 1 := by bv_omega

/-- One down, modulo 256 (R234 to R236). -/
theorem ofNat_toNat_add_255 (m : Byte) : BitVec.ofNat 8 ((m.toNat + 255) % 256) = m - 1 := by bv_omega

/-- The flags of a compare on numbers: the unsigned comparison, equality, bit 7 of the difference (R228 to R230). -/
theorem Flags.afterCompare_eq (r m : Byte) (p : Flags) :
    p.afterCompare r m =
      { p with c := decide (m.toNat ≤ r.toNat), z := decide (r.toNat = m.toNat),
               n := decide (0x80 ≤ (r.toNat + 256 - m.toNat) % 256) } := by
  have hz : (r == m) = decide (r.toNat = m.toNat) := by
    rw [beq_eq_decide, decide_eq_decide]
    exact BitVec.toNat_inj.symm
  have hdifference : (r - m).toNat = (r.toNat + 256 - m.toNat) % 256 := by bv_omega
  have hn : (r - m).getLsbD 7 = decide (0x80 ≤ (r - m).toNat) :=
    (BitVec.msb_eq_getLsbD_last _).symm.trans (BitVec.msb_eq_decide _)
  rw [Flags.afterCompare, hz, hn, hdifference]

/-! ### A bus write after a bus read -/

section
variable {a b : Word} {s : State}

/-- A port read leaves the mask (R304). -/
theorem portRead_mask {p : BitVec 3} {r : Byte × State} (h : portRead p s = .next r) :
    r.2.ppu.mask = s.ppu.mask := by
  unfold portRead at h
  split_ifs at h
  · cases h
    rfl
  · cases h
    unfold readOamData
    split_ifs <;> rfl
  · unfold readData at h
    dsimp only at h
    split_ifs at h <;> cases h <;> rfl
  · cases h
    rfl

/-- A bus read leaves the mask. -/
theorem memRead_mask {r : Byte × State} (h : memRead a s = .next r) : r.2.ppu.mask = s.ppu.mask := by
  by_cases hports : InPorts a
  · rw [memRead_inPorts hports] at h
    exact portRead_mask h
  · by_cases hdma : a = 0x4014
    · subst hdma
      cases h
      rfl
    · rw [memRead_pure h hports hdma]

/-- A bus read makes no address that could be written one that cannot: it leaves the parameters, the mask and the scanline,
so the PPU renders after it exactly where it did before. -/
theorem writable_of_memRead {r : Byte × State} (h : memRead a s = .next r) (hb : Writable b s) : Writable b r.2 := by
  have hframe := memRead_frame h
  unfold Writable Unmapped Rendering
  rwa [hframe.params, hframe.scanline, memRead_mask h]

end

/-! ### The rule of a read-modify-write -/

theorem Operand.mode_eq_acc {o : Operand} : o.mode = .acc ↔ o = .acc := by
  cases o <;> simp [Operand.mode]

/-- The rule of an instruction that has the shape of a read-modify-write of memory, with a work `f` on the flags that may use
the flags it began with: a bus access leaves these, and away from the DMA port the write adds no cycles. -/
theorem modifyingRule_of_modifying {i : Operand → Instr} {mn : Mnemonic} {table : List (Mode × Byte × Nat)}
    {result : Byte → Flags → Byte} {flags : Byte → Flags → Flags} {f : Flags → Byte → State → State}
    (henc : Encodings mn table) (hparts : ∀ o, (i o).parts = some (mn, o)) (hmodes : mn.modes ⊆ .acc :: addressModes)
    (hexec : ∀ o s, o ≠ .acc → exec (i o) s = modifying mn o (fun m => result m s.cpu.p) (f s.cpu.p) s)
    (hf : ∀ m u, f u.cpu.p m u = { u with cpu := { u.cpu with p := flags m u.cpu.p } }) :
    ModifyingRule i mn table result flags := by
  refine ⟨henc, fun s o hwf hacc => ?_⟩
  have hmode := (Instr.wellFormed_of_parts (hparts o)).mp hwf
  have haddress : o.mode ∈ addressModes :=
    (List.mem_cons.mp (hmodes hmode)).resolve_left (mt Operand.mode_eq_acc.mp hacc)
  obtain ⟨e, he⟩ := exists_effective haddress s
  rw [hexec o s hacc, modifying, withEntry_eq henc hmode, he, andThen_next]
  refine ⟨e, rfl, fun hreadable hwritable => ?_, fun hunmapped => ?_⟩
  · obtain ⟨⟨m, t⟩, hm⟩ := exists_memRead hreadable
    obtain ⟨u, hu⟩ := exists_memWrite (writable_of_memRead hm hwritable) (result m s.cpu.p)
    obtain ⟨-, hea, -⟩ := hwritable
    have hcpu := ((memRead_frame hm).trans (memWrite_frame hu)).cpu
    have hpc : u.cpu.pc = s.cpu.pc := by rw [hcpu]
    have hp : u.cpu.p = s.cpu.p := by rw [hcpu]
    have hdma : dmaExtra e.ea (baseCycles s.params table o.mode) u = 0 := if_neg hea
    refine ⟨m, t, u, hm, hu, hcpu, ?_⟩
    rw [hm, andThen_next, hu, andThen_next, advance_eq, hdma, Nat.add_zero, ← hp, hf, ← hpc]
  · rw [memRead_unmapped hunmapped, andThen_fault]

end Sys2Proof.Machine

namespace Sys2Proof.Spec

open Sys2Proof.Machine

/-- Settles O22: each compare has the reading shape; its work is on the flags. -/
theorem comparesSetCZN : Obligations.ComparesSetCZN := by
  unfold Obligations.ComparesSetCZN
  intro compare
  have hwork : ∀ (r m : Byte) (u : State), u.setFlags (u.cpu.p.afterCompare r m) =
      { u with cpu := { u.cpu with p := compare r m u.cpu.p } } := by
    intro r m u
    rw [Flags.afterCompare_eq]
    rfl
  exact
    ⟨readingRule_of_reading (f := fun m u => u.setFlags (u.cpu.p.afterCompare u.cpu.a m)) (encodings_of_entries rfl)
        (fun _ => rfl) (fun _ _ => rfl) (fun m u => hwork u.cpu.a m u) fun _ _ => rfl,
      readingRule_of_reading (f := fun m u => u.setFlags (u.cpu.p.afterCompare u.cpu.x m)) (encodings_of_entries rfl)
        (fun _ => rfl) (fun _ _ => rfl) (fun m u => hwork u.cpu.x m u) fun _ _ => rfl,
      readingRule_of_reading (f := fun m u => u.setFlags (u.cpu.p.afterCompare u.cpu.y m)) (encodings_of_entries rfl)
        (fun _ => rfl) (fun _ _ => rfl) (fun m u => hwork u.cpu.y m u) fun _ _ => rfl⟩

/-- Settles O23: both have the shape of a read-modify-write; their work is Z and N of the byte written. -/
theorem incrementsAndDecrementsOfMemory : Obligations.IncrementsAndDecrementsOfMemory := by
  unfold Obligations.IncrementsAndDecrementsOfMemory
  intro up down
  simp only [up, down, ofNat_toNat_add_one, ofNat_toNat_add_255]
  exact
    ⟨modifyingRule_of_modifying (f := fun _ m u => u.setZN (m + 1)) (encodings_of_entries rfl) (fun _ => rfl) (by decide)
        (fun _ _ _ => rfl) fun m u => u.setZN_eq (m + 1),
      modifyingRule_of_modifying (f := fun _ m u => u.setZN (m - 1)) (encodings_of_entries rfl) (fun _ => rfl) (by decide)
        (fun _ _ _ => rfl) fun m u => u.setZN_eq (m - 1)⟩

/-- Settles O24: each has the implied shape; its work is one register, Z and N. -/
theorem incrementsAndDecrementsOfRegisters : Obligations.IncrementsAndDecrementsOfRegisters := by
  unfold Obligations.IncrementsAndDecrementsOfRegisters
  intro up down
  simp only [up, down, ofNat_toNat_add_one, ofNat_toNat_add_255]
  exact
    ⟨impliedRule_of_implied rfl rfl (fun _ => rfl) (fun s => (s.setX (s.cpu.x + 1)).setZN_eq (s.cpu.x + 1)) fun _ => rfl,
      impliedRule_of_implied rfl rfl (fun _ => rfl) (fun s => (s.setY (s.cpu.y + 1)).setZN_eq (s.cpu.y + 1)) fun _ => rfl,
      impliedRule_of_implied rfl rfl (fun _ => rfl) (fun s => (s.setX (s.cpu.x - 1)).setZN_eq (s.cpu.x - 1)) fun _ => rfl,
      impliedRule_of_implied rfl rfl (fun _ => rfl) (fun s => (s.setY (s.cpu.y - 1)).setZN_eq (s.cpu.y - 1)) fun _ => rfl⟩

end Sys2Proof.Spec
end

section
/-! SUPPORT. The logic instructions, BIT, the shifts and the rotates (O25, O26): the bits that go to the flags and the results
of a shift on numbers, and the rule of the shifting shape, of A and of memory (43_logic_shift.md R245 to R253). -/

namespace Sys2Proof.Machine

open Sys2Proof.Spec

/-! ### Results on numbers -/

/-- The top bit of a byte says that it is at least 0x80 (R14). -/
theorem getLsbD_seven_eq (m : Byte) : m.getLsbD 7 = decide (0x80 ≤ m.toNat) :=
  (BitVec.msb_eq_getLsbD_last m).symm.trans (BitVec.msb_eq_decide m)

/-- The bottom bit of a byte says that it is odd. -/
theorem getLsbD_zero_eq (m : Byte) : m.getLsbD 0 = decide (m.toNat % 2 = 1) := by
  rw [BitVec.getLsbD, Nat.testBit_zero]

/-- The flags of BIT on numbers: bits 6 and 7 of the operand, and the and (R249). -/
theorem Flags.afterBit_eq (a m : Byte) (p : Flags) :
    p.afterBit a m =
      { p with z := decide (a &&& m = 0), v := decide (m.toNat / 64 % 2 = 1), n := decide (0x80 ≤ m.toNat) } := by
  have hv : m.getLsbD 6 = decide (m.toNat / 64 % 2 = 1) := Nat.testBit_eq_decide_div_mod_eq
  rw [Flags.afterBit, hv, getLsbD_seven_eq, beq_eq_decide]

/-- One place to the left, modulo 256. -/
theorem toNat_shiftLeft_one (m : Byte) : (m <<< 1).toNat = m.toNat * 2 % 256 := by
  rw [BitVec.toNat_shiftLeft, Nat.shiftLeft_eq]

/-- One place to the right. -/
theorem toNat_shiftRight_one (m : Byte) : (m >>> 1).toNat = m.toNat / 2 := by
  rw [BitVec.toNat_ushiftRight, Nat.shiftRight_eq_div_pow]

/-- The carry as a byte. -/
theorem toNat_bit (c : Bool) : ((bit c).setWidth 8).toNat = c.toNat := by cases c <;> rfl

/-- The carry as bit 7 of a byte. -/
theorem toNat_bit_shiftLeft (c : Bool) : ((bit c).setWidth 8 <<< 7).toNat = c.toNat * 128 := by cases c <;> rfl

/-- ASL on numbers (R250). -/
theorem shiftLeft_eq (m : Byte) :
    shiftLeft m = { r := BitVec.ofNat 8 (m.toNat * 2 % 256), c := decide (0x80 ≤ m.toNat) } := by
  rw [shiftLeft, getLsbD_seven_eq, ← toNat_shiftLeft_one, BitVec.ofNat_toNat, BitVec.setWidth_eq]

/-- LSR on numbers (R251). -/
theorem shiftRight_eq (m : Byte) :
    shiftRight m = { r := BitVec.ofNat 8 (m.toNat / 2), c := decide (m.toNat % 2 = 1) } := by
  rw [shiftRight, getLsbD_zero_eq, ← toNat_shiftRight_one, BitVec.ofNat_toNat, BitVec.setWidth_eq]

/-- ROL on numbers (R252): bit 0, which the shift leaves clear, takes the old carry, so the or is a sum. -/
theorem rotateLeft_eq (c : Bool) (m : Byte) :
    rotateLeft c m = { r := BitVec.ofNat 8 (m.toNat * 2 % 256 + c.toNat), c := decide (0x80 ≤ m.toNat) } := by
  have hr : m <<< 1 ||| (bit c).setWidth 8 = BitVec.ofNat 8 (m.toNat * 2 % 256 + c.toNat) := by
    apply BitVec.eq_of_toNat_eq
    have hhigh : m.toNat * 2 % 256 = (m.toNat % 128) <<< 1 := by rw [Nat.shiftLeft_eq]; omega
    have hlow : c.toNat < 2 ^ 1 := c.toNat_lt
    have hm := m.isLt
    rw [BitVec.toNat_or, toNat_shiftLeft_one, toNat_bit, BitVec.toNat_ofNat, hhigh,
      ← Nat.shiftLeft_add_eq_or_of_lt hlow, Nat.shiftLeft_eq]
    omega
  rw [rotateLeft, getLsbD_seven_eq, hr]

/-- ROR on numbers (R253): bit 7, which the shift leaves clear, takes the old carry, so the or is a sum. -/
theorem rotateRight_eq (c : Bool) (m : Byte) :
    rotateRight c m = { r := BitVec.ofNat 8 (m.toNat / 2 + c.toNat * 128), c := decide (m.toNat % 2 = 1) } := by
  have hr : m >>> 1 ||| (bit c).setWidth 8 <<< 7 = BitVec.ofNat 8 (m.toNat / 2 + c.toNat * 128) := by
    apply BitVec.eq_of_toNat_eq
    have hhigh : c.toNat * 128 = c.toNat <<< 7 := (Nat.shiftLeft_eq c.toNat 7).symm
    have hlow : m.toNat / 2 < 2 ^ 7 := Nat.div_lt_of_lt_mul m.isLt
    have hc := c.toNat_lt
    rw [BitVec.toNat_or, toNat_shiftRight_one, toNat_bit_shiftLeft, BitVec.toNat_ofNat, hhigh, Nat.or_comm,
      ← Nat.shiftLeft_add_eq_or_of_lt hlow, ← hhigh]
    omega
  rw [rotateRight, getLsbD_zero_eq, hr]

/-- The flags after a shift or rotate on numbers (R250 to R253). -/
theorem Flags.afterShift_eq (q : ShiftResult) (p : Flags) : p.afterShift q = withZN q.r { p with c := q.c } :=
  setZN_eq_withZN _ _

/-! ### The rules -/

/-- The rule of a logic instruction `op`: it has the reading shape, and its work is A, Z and N (R246 to R248). -/
theorem readingRule_of_logic {i : Operand → Instr} {mn : Mnemonic} {table : List (Mode × Byte × Nat)}
    {op : Byte → Byte → Byte} (henc : Encodings mn table) (hparts : ∀ o, (i o).parts = some (mn, o))
    (hexec : ∀ o s, exec (i o) s = reading mn o (fun m u => (u.setA (op u.cpu.a m)).setZN (op u.cpu.a m)) s) :
    ReadingRule i mn table fun m c => { c with a := op c.a m, p := withZN (op c.a m) c.p } :=
  readingRule_of_reading henc hparts hexec (fun m u => (u.setA (op u.cpu.a m)).setZN_eq (op u.cpu.a m)) fun _ _ => rfl

section
variable {i : Operand → Instr} {mn : Mnemonic} {opcode : Byte} {cycles : Nat} {table : List (Mode × Byte × Nat)}
  {sh : Flags → Byte → ShiftResult} {result : Byte → Flags → Byte} {out : Byte → Bool}

/-- The rule of a shift or rotate of A: its one byte decodes alone, and its work is A and the flags (R122, R245). -/
theorem impliedRule_of_shifting (he : tableEntry mn .acc = some ⟨.acc, opcode, cycles⟩)
    (hparts : (i .acc).parts = some (mn, .acc)) (hexec : ∀ s, exec (i .acc) s = shifting mn .acc (sh s.cpu.p) s)
    (hsh : ∀ p m, sh p m = { r := result m p, c := out m }) :
    ImpliedRule (i .acc) opcode cycles fun c =>
      { c with a := result c.a c.p, p := withZN (result c.a c.p) { c.p with c := out c.a } } := by
  refine ⟨?_, cycles_spec_of_mem (tableEntry_eq_some.mp he).1, fun s => ?_⟩
  · have hwf : (i .acc).wellFormed = true := (Instr.wellFormed_of_parts hparts).mpr (Mnemonic.mem_modes.mpr ⟨_, he⟩)
    have hdecode := decode_encode hwf []
    rwa [encode_of_parts hparts he] at hdecode
  · rw [hexec, shifting_acc, withEntry_some he, hsh, advance_eq, Flags.afterShift_eq]
    rfl

/-- The rule of a shift or rotate of memory: a read-modify-write whose work is the flags (R245). -/
theorem modifyingRule_of_shifting (henc : Encodings mn table) (hparts : ∀ o, (i o).parts = some (mn, o))
    (hmodes : mn.modes ⊆ .acc :: addressModes) (hexec : ∀ o s, exec (i o) s = shifting mn o (sh s.cpu.p) s)
    (hsh : ∀ p m, sh p m = { r := result m p, c := out m }) :
    ModifyingRule i mn table result fun m p => withZN (result m p) { p with c := out m } := by
  refine modifyingRule_of_modifying (f := fun p m u => u.setFlags (u.cpu.p.afterShift (sh p m))) henc hparts hmodes
    (fun o s ho => ?_) fun m u => ?_
  · simp only [hexec, shifting_mem ho, hsh]
  · rw [hsh, Flags.afterShift_eq]
    rfl

/-- A shift or rotate `sh` that gives `result` and shifts out `out` follows its rule of A and its rule of memory. -/
theorem shiftRules_of_shifting (he : tableEntry mn .acc = some ⟨.acc, opcode, cycles⟩) (henc : Encodings mn table)
    (hparts : ∀ o, (i o).parts = some (mn, o)) (hmodes : mn.modes ⊆ .acc :: addressModes)
    (hexec : ∀ o s, exec (i o) s = shifting mn o (sh s.cpu.p) s)
    (hsh : ∀ p m, sh p m = { r := result m p, c := out m }) :
    (ImpliedRule (i .acc) opcode cycles fun c =>
      { c with a := result c.a c.p, p := withZN (result c.a c.p) { c.p with c := out c.a } }) ∧
    ModifyingRule i mn table result fun m p => withZN (result m p) { p with c := out m } :=
  ⟨impliedRule_of_shifting he (hparts .acc) (hexec .acc) hsh,
    modifyingRule_of_shifting henc hparts hmodes hexec hsh⟩

end

end Sys2Proof.Machine

namespace Sys2Proof.Spec

open Sys2Proof.Machine

/-- Settles O25: the first three are logic instructions; BIT has the reading shape, and its work is on the flags. -/
theorem logicAndBitTest : Obligations.LogicAndBitTest :=
  ⟨readingRule_of_logic (op := (· &&& ·)) (encodings_of_entries rfl) (fun _ => rfl) fun _ _ => rfl,
    readingRule_of_logic (op := (· ||| ·)) (encodings_of_entries rfl) (fun _ => rfl) fun _ _ => rfl,
    readingRule_of_logic (op := (· ^^^ ·)) (encodings_of_entries rfl) (fun _ => rfl) fun _ _ => rfl,
    readingRule_of_reading (encodings_of_entries rfl) (fun _ => rfl) (fun _ _ => rfl)
      (fun m u => congrArg u.setFlags (Flags.afterBit_eq u.cpu.a m u.cpu.p)) fun _ _ => rfl⟩

/-- Settles O26: each has the shifting shape, and what it shifts is given on numbers by its lemma (R250 to R253). -/
theorem shiftsAndRotates : Obligations.ShiftsAndRotates :=
  ⟨shiftRules_of_shifting rfl (encodings_of_entries rfl) (fun _ => rfl) (by decide) (fun _ _ => rfl)
      fun _ => shiftLeft_eq,
    shiftRules_of_shifting rfl (encodings_of_entries rfl) (fun _ => rfl) (by decide) (fun _ _ => rfl)
      fun _ => shiftRight_eq,
    shiftRules_of_shifting rfl (encodings_of_entries rfl) (fun _ => rfl) (by decide) (fun _ _ => rfl)
      fun p => rotateLeft_eq p.c,
    shiftRules_of_shifting rfl (encodings_of_entries rfl) (fun _ => rfl) (by decide) (fun _ _ => rfl)
      fun p => rotateRight_eq p.c⟩

end Sys2Proof.Spec
end

section
/-! SUPPORT. The conditional branches (O29): the target on numbers, its page against that of the next instruction, and from
these the rule of the branching shape (30_encoding.md R132; 44_control.md R264 to R272; 92_eei_decisions.md D17). -/

namespace Sys2Proof.Machine

open Sys2Proof.Spec

/-- The opcode byte and the operand bytes of an instruction decode alone (R122). -/
theorem decode_of_parts {i : Instr} {mn : Mnemonic} {o : Operand} {e : Entry} (hparts : i.parts = some (mn, o))
    (he : tableEntry mn o.mode = some e) : decode (e.opcode :: o.bytes) = .ok (i, []) := by
  have hwf : i.wellFormed = true := (Instr.wellFormed_of_parts hparts).mpr (Mnemonic.mem_modes.mpr ⟨e, he⟩)
  have hdecode := decode_encode hwf []
  rwa [encode_of_parts hparts he, List.append_nil] at hdecode

/-! ### The target -/

/-- The target of a branch as a number: that of the next instruction plus the signed offset, modulo 0x10000 (R132). -/
theorem toNat_branchTarget (pc : Word) (offset : Byte) :
    (branchTarget pc offset).toNat = (((pc.toNat : Int) + 2 + offset.toInt) % 0x10000).toNat := by
  have hoffset : (sext16 offset).toNat = (offset.toInt % 0x10000).toNat := BitVec.toNat_ofInt offset.toInt
  have htwo : (2 : Word).toNat = 2 := rfl
  rw [branchTarget, BitVec.toNat_add, BitVec.toNat_add, hoffset, htwo]
  omega

/-- One cycle for a branch that is taken, and one more where the target lies in another page than the next instruction
(R264, D17). -/
theorem add_pageCross_eq (n : Nat) (next target : Word) :
    n + 1 + (pageCross next target).toNat =
      if target.toNat / 256 = next.toNat / 256 then n + 1 else n + 2 := by
  rw [pageCross_eq]
  by_cases hpage : target.toNat / 256 = next.toNat / 256
  · simp [hpage]
  · simp [hpage]

/-! ### The rule -/

/-- The rule of an instruction that has the branching shape, with the condition `cond` of the flags (R264). -/
theorem branchRule_of_branching {i : Byte → Instr} {mn : Mnemonic} {opcode : Byte} {cond : Flags → Bool}
    (he : tableEntry mn .rel = some ⟨.rel, opcode, 2⟩) (hparts : ∀ b, (i b).parts = some (mn, .rel b))
    (hexec : ∀ b s, exec (i b) s = branching mn (cond s.cpu.p) b s) : BranchRule i opcode cond := by
  refine ⟨cycles_spec_of_mem (tableEntry_eq_some.mp he).1, fun s offset => ⟨decode_of_parts (hparts offset) he, ?_⟩⟩
  have hnext : (s.cpu.pc + 2).toNat = (s.cpu.pc.toNat + 2) % 0x10000 := BitVec.toNat_add s.cpu.pc 2
  rw [hexec, branching_some he, add_pageCross_eq, ← hnext, ← toNat_branchTarget, BitVec.ofNat_toNat, BitVec.ofNat_toNat,
    BitVec.setWidth_eq, BitVec.setWidth_eq]
  rfl

end Sys2Proof.Machine

namespace Sys2Proof.Spec

open Sys2Proof.Machine

/-- Settles O29: each has the branching shape, with its flag as the condition. -/
theorem branchesTestOneFlag : Obligations.BranchesTestOneFlag :=
  ⟨branchRule_of_branching rfl (fun _ => rfl) fun _ _ => rfl, branchRule_of_branching rfl (fun _ => rfl) fun _ _ => rfl,
    branchRule_of_branching rfl (fun _ => rfl) fun _ _ => rfl, branchRule_of_branching rfl (fun _ => rfl) fun _ _ => rfl,
    branchRule_of_branching rfl (fun _ => rfl) fun _ _ => rfl, branchRule_of_branching rfl (fun _ => rfl) fun _ _ => rfl,
    branchRule_of_branching rfl (fun _ => rfl) fun _ _ => rfl, branchRule_of_branching rfl (fun _ => rfl) fun _ _ => rfl⟩

end Sys2Proof.Spec
end

section
/-! SUPPORT. The flag instructions and NOP (O30): the rule of an implied instruction that writes only the flags
(45_flags_system.md R281 to R287, R290). -/

namespace Sys2Proof.Machine

open Sys2Proof.Spec

/-- The rule of an instruction that has the implied shape and whose work is `flags` on the flags (R281 to R287). -/
theorem impliedRule_of_setFlags {i : Instr} {mn : Mnemonic} {opcode : Byte} {cycles : Nat} (flags : Flags → Flags)
    (he : tableEntry mn .imp = some ⟨.imp, opcode, cycles⟩) (hparts : i.parts = some (mn, .imp))
    (hexec : ∀ s, exec i s = implied mn (fun s => s.setFlags (flags s.cpu.p)) s) :
    ImpliedRule i opcode cycles fun c => { c with p := flags c.p } :=
  impliedRule_of_implied he hparts hexec (fun _ => rfl) fun _ => rfl

end Sys2Proof.Machine

namespace Sys2Proof.Spec

open Sys2Proof.Machine

/-- Settles O30: each has the implied shape; the work of the first seven is one flag, and NOP has none. -/
theorem flagInstructionsAndNop : Obligations.FlagInstructionsAndNop :=
  ⟨impliedRule_of_setFlags (fun p => { p with c := false }) rfl rfl fun _ => rfl,
    impliedRule_of_setFlags (fun p => { p with c := true }) rfl rfl fun _ => rfl,
    impliedRule_of_setFlags (fun p => { p with i := false }) rfl rfl fun _ => rfl,
    impliedRule_of_setFlags (fun p => { p with i := true }) rfl rfl fun _ => rfl,
    impliedRule_of_setFlags (fun p => { p with d := false }) rfl rfl fun _ => rfl,
    impliedRule_of_setFlags (fun p => { p with d := true }) rfl rfl fun _ => rfl,
    impliedRule_of_setFlags (fun p => { p with v := false }) rfl rfl fun _ => rfl,
    impliedRule_of_implied rfl rfl (fun _ => rfl) (fun _ => rfl) fun _ => rfl⟩

end Sys2Proof.Spec
end

section
/-! SUPPORT. The PPU ports (O13, O41, O42, O43): fields of the scroll registers bit by bit, the address the data port goes
through on numbers, and one rule per port and per state of the renderer (47_ppu_registers.md R301 to R317). -/

namespace Sys2Proof.Machine

open Sys2Proof.Spec

/-! ### The scroll registers -/

/-- A field put into a scroll register, bit by bit (R10, R45). -/
theorem getLsbD_putField {n k : Nat} (hk : k < 15) (v : Scroll) (lo : Nat) (f : BitVec n) :
    (putField v lo f).getLsbD k = if lo ≤ k ∧ k < lo + n then f.getLsbD (k - lo) else v.getLsbD k := by
  have hsub : k - lo < 15 := Nat.lt_of_le_of_lt (Nat.sub_le k lo) hk
  simp only [putField, BitVec.getLsbD_or, BitVec.getLsbD_and, BitVec.getLsbD_not, BitVec.getLsbD_shiftLeft,
    BitVec.getLsbD_setWidth, BitVec.getLsbD_allOnes, hk, hsub, decide_true, Bool.true_and]
  by_cases hlo : k < lo
  · simp [hlo, Nat.not_le_of_lt hlo]
  · by_cases hhi : k < lo + n
    · have hin : k - lo < n := by omega
      simp [hlo, hhi, hin, Nat.le_of_not_lt hlo]
    · have hout : n ≤ k - lo := by omega
      simp [hlo, hhi, Nat.not_lt_of_le hout, BitVec.getLsbD_of_ge _ _ hout]

/-- Bits of a byte put into a scroll register: every place keeps its distance from the byte's (R306, R311, R314). -/
theorem getLsbD_putField_extractLsb' {k : Nat} (hk : k < 15) (v : Scroll) (lo start n : Nat) (d : Byte) :
    (putField v lo (d.extractLsb' start n)).getLsbD k =
      if lo ≤ k ∧ k < lo + n then d.getLsbD (start + (k - lo)) else v.getLsbD k := by
  rw [getLsbD_putField hk, BitVec.getLsbD_extractLsb']
  split_ifs with hfield
  · rw [decide_eq_true (by omega), Bool.true_and]
  · rfl

/-- `ppu.v & 0x3FFF`, on numbers (R312, R313). -/
theorem Ppu.dataAddr_eq (p : Ppu) : p.dataAddr = BitVec.ofNat 14 (p.v.toNat % 0x4000) := by
  apply BitVec.eq_of_toNat_eq
  simp [Ppu.dataAddr]

/-- `v` after a data-port access, on numbers (R316). -/
theorem Ppu.nextV_eq (p : Ppu) :
    p.nextV = BitVec.ofNat 15 (p.v.toNat + if p.ctrl.getLsbD 2 then 32 else 1) := by
  apply BitVec.eq_of_toNat_eq
  unfold Ppu.nextV
  split_ifs <;> simp [BitVec.toNat_add]

/-- `a & 0x2FFF` of a palette address: the nametable byte beneath it (R312). -/
theorem and_0x2FFF_of_palette {a : PpuAddr} (h : 0x3F00 ≤ a.toNat) :
    a &&& 0x2FFF = BitVec.ofNat 14 (a.toNat - 0x1000) := by
  have hdigits : ∀ i < 16, ∀ j < 16, (0x3F00 + i * 16 + j) &&& 0x2FFF = 0x2F00 + i * 16 + j := by decide
  have hmask := hdigits (a.toNat / 16 % 16) (by omega) (a.toNat % 16) (by omega)
  have ha : 0x3F00 + a.toNat / 16 % 16 * 16 + a.toNat % 16 = a.toNat := by omega
  rw [ha] at hmask
  apply BitVec.eq_of_toNat_eq
  rw [BitVec.toNat_and, BitVec.toNat_ofNat]
  exact hmask.trans (by omega)

/-! ### The status port -/

/-- A concatenation on numbers (R10). -/
theorem toNat_append_eq_add {m n : Nat} (x : BitVec m) (y : BitVec n) :
    (x ++ y).toNat = x.toNat * 2 ^ n + y.toNat := by
  rw [BitVec.toNat_append, ← Nat.shiftLeft_add_eq_or_of_lt y.isLt, Nat.shiftLeft_eq]

/-- The status byte on numbers: three flags above five free bits (R307). -/
theorem toNat_readStatus (s : State) :
    (readStatus s).1.toNat = s.ppu.vblank.toNat * 128 + s.ppu.s0hit.toNat * 64 + s.ppu.overflow.toNat * 32 +
      (Config.draw 5 s.draws).toNat := by
  simp only [readStatus, bit, draw, toNat_append_eq_add, BitVec.toNat_ofBool]
  omega

/-- A status read clears `vblank`, and so lowers the NMI line, and `w` (R303, R307). -/
theorem readStatus_snd (s : State) :
    (readStatus s).2 = { s with
      draws := s.draws + 1
      ppu := { s.ppu with vblank := false, w := false, nmiLine := false } } := by
  simp [readStatus, updateNmi, draw, State.setPpu]

/-! ### Ports 4 and 7, where the renderer decides (R317) -/

section
variable {s : State}

theorem readOamData_rendering (h : Rendering s) : readOamData s = draw 8 s := if_pos ((isRendering_iff s).mpr h)

theorem readOamData_idle (h : ¬Rendering s) : readOamData s = (s.mem.oamByte s.ppu.oamaddr.toNat, s) :=
  if_neg (mt (isRendering_iff s).mp h)

theorem readData_rendering (h : Rendering s) : readData s = .refused (.portAccessWhileRendering 7) :=
  if_pos ((isRendering_iff s).mpr h)

/-- Below the palette the data port answers with its buffer, and fills it (R312). -/
theorem readData_buffered (h : ¬Rendering s) (ha : s.ppu.dataAddr.toNat ≤ 0x3EFF) :
    readData s = .next (s.ppu.readbuf, { s with ppu := { s.ppu with
      readbuf := ppuRead s.cart s.mem s.ppu.dataAddr, v := s.ppu.nextV } }) := by
  have hbuffered : s.ppu.dataAddr ≤ 0x3EFF := ha
  rw [readData, if_neg (mt (isRendering_iff s).mp h)]
  exact if_pos hbuffered

/-- In the palette the data port answers at once, and fills the buffer from the nametable beneath (R312). -/
theorem readData_palette (h : ¬Rendering s) (ha : 0x3F00 ≤ s.ppu.dataAddr.toNat) :
    readData s = .next (ppuRead s.cart s.mem s.ppu.dataAddr, { s with ppu := { s.ppu with
      readbuf := ppuRead s.cart s.mem (BitVec.ofNat 14 (s.ppu.dataAddr.toNat - 0x1000)), v := s.ppu.nextV } }) := by
  rw [readData, if_neg (mt (isRendering_iff s).mp h), ← and_0x2FFF_of_palette ha]
  exact if_neg (bus_tests_of_palette ha).2

theorem writeOamData_rendering (h : Rendering s) (d : Byte) :
    writeOamData d s = .refused (.portAccessWhileRendering 4) := if_pos ((isRendering_iff s).mpr h)

theorem writeOamData_idle (h : ¬Rendering s) (d : Byte) :
    writeOamData d s = .next { s with
      mem := s.mem.putOam s.ppu.oamaddr.toNat d, ppu := { s.ppu with oamaddr := s.ppu.oamaddr + 1 } } :=
  if_neg (mt (isRendering_iff s).mp h)

theorem writeData_rendering (h : Rendering s) (d : Byte) :
    writeData d s = .refused (.portAccessWhileRendering 7) := if_pos ((isRendering_iff s).mpr h)

theorem writeData_idle (h : ¬Rendering s) (d : Byte) :
    writeData d s = .next { s with
      mem := ppuWrite s.cart s.ppu.dataAddr d s.mem, ppu := { s.ppu with v := s.ppu.nextV } } :=
  if_neg (mt (isRendering_iff s).mp h)

/-! ### The two-stage latches (R311, R314) -/

theorem writeScroll_first (h : s.ppu.w = false) (d : Byte) :
    writeScroll d s = { s with ppu := { s.ppu with
      t := putField s.ppu.t 0 (d.extractLsb' 3 5), x := BitVec.ofNat 3 (d.toNat % 8), w := true } } := by
  have hfine : d.extractLsb' 0 3 = BitVec.ofNat 3 (d.toNat % 8) := by
    apply BitVec.eq_of_toNat_eq
    simp
  rw [writeScroll, h, hfine]
  rfl

theorem writeScroll_second (h : s.ppu.w = true) (d : Byte) :
    writeScroll d s = { s with ppu := { s.ppu with
      t := putField (putField s.ppu.t 12 (d.extractLsb' 0 3)) 5 (d.extractLsb' 3 5), w := false } } := if_pos h

theorem writeAddr_first (h : s.ppu.w = false) (d : Byte) :
    writeAddr d s = { s with ppu := { s.ppu with
      t := putField (putField s.ppu.t 8 (d.extractLsb' 0 6)) 14 (0#1), w := true } } := by
  rw [writeAddr, h]
  rfl

theorem writeAddr_second (h : s.ppu.w = true) (d : Byte) :
    writeAddr d s = { s with ppu := { s.ppu with
      t := putField s.ppu.t 0 d, v := putField s.ppu.t 0 d, w := false } } := if_pos h

end

end Sys2Proof.Machine

namespace Sys2Proof.Spec

open Sys2Proof.Machine

/-- Settles O41: the rule of each port that can be read, the data port's address and its step on numbers. -/
theorem portReads : Obligations.PortReads := by
  intro s
  refine ⟨fun p hp => ?_,
    ⟨(readStatus s).1, congrArg Host.Outcome.next (Prod.ext rfl (readStatus_snd s)), toNat_readStatus s⟩,
    fun h => congrArg Host.Outcome.next (readOamData_idle h),
    fun h => congrArg Host.Outcome.next (readOamData_rendering h), fun h => readData_rendering h, fun h => ?_⟩
  · simp only [List.mem_cons, List.not_mem_nil, or_false, not_or] at hp
    obtain ⟨h2, h4, h7⟩ := hp
    rw [portRead, if_neg h2, if_neg h4, if_neg h7]
    rfl
  · rw [← Ppu.dataAddr_eq, ← Ppu.nextV_eq]
    exact ⟨fun ha => readData_buffered h ha, fun ha => readData_palette h ha⟩

/-- Settles O42: the rule of each port; control puts two bits of the byte at bit 10 of `t`. -/
theorem portWrites : Obligations.PortWrites := by
  intro s d
  refine ⟨⟨putField s.ppu.t 10 (d.extractLsb' 0 2), rfl, fun k hk => ?_⟩, rfl, rfl, rfl, fun h => ?_, fun h => ?_,
    fun h => ⟨writeOamData_rendering h d, writeData_rendering h d⟩⟩
  · have hplace : 10 ≤ k ∧ k < 10 + 2 ↔ k = 10 ∨ k = 11 := by omega
    rw [getLsbD_putField_extractLsb' hk, Nat.zero_add]
    simp only [hplace]
  · have hnext : BitVec.ofNat 8 (s.ppu.oamaddr.toNat + 1) = s.ppu.oamaddr + 1 := by bv_omega
    rw [hnext]
    exact writeOamData_idle h d
  · rw [← Ppu.dataAddr_eq, ← Ppu.nextV_eq]
    exact writeData_idle h d

/-- Settles O43: each latch puts its fields into `t`, and each field is read bit by bit. -/
theorem scrollAndAddressLatches : Obligations.ScrollAndAddressLatches := by
  intro s d same
  refine ⟨fun hw => ⟨_, congrArg Host.Outcome.next (writeScroll_first hw d), fun k hk => ?_⟩,
    fun hw => ⟨_, congrArg Host.Outcome.next (writeScroll_second hw d), fun k hk => ?_⟩,
    fun hw => ⟨_, congrArg Host.Outcome.next (writeAddr_first hw d), fun k hk => ?_⟩,
    fun hw => ⟨_, congrArg Host.Outcome.next (writeAddr_second hw d), fun k hk => ?_⟩⟩
  · rw [getLsbD_putField_extractLsb' hk]
    grind
  · rw [getLsbD_putField_extractLsb' hk, getLsbD_putField_extractLsb' hk]
    grind
  · rw [getLsbD_putField hk, getLsbD_putField_extractLsb' hk]
    grind
  · rw [getLsbD_putField hk]
    grind

end Sys2Proof.Spec
end

section
/-! SUPPORT. The accesses refused while the PPU is rendering (O13): one lemma per shape of an instruction, and the shape of
each instruction that reads or stores (47_ppu_registers.md R310, R312, R313, R317; 92_eei_decisions.md D41). -/

namespace Sys2Proof.Machine

open Sys2Proof.Spec

/-! ### Bus accesses -/

section
variable {a : Word} {s : State}

/-- A bus read does not stop the renderer (R317). -/
theorem rendering_of_memRead {r : Byte × State} (h : memRead a s = .next r) (hs : Rendering s) : Rendering r.2 := by
  have hframe := memRead_frame h
  unfold Rendering
  rwa [hframe.params, hframe.scanline, memRead_mask h]

/-- While rendering, a write to port 4 or 7 is refused (R310, R313, D41). -/
theorem memWrite_port_refused {k : Nat} (hk : k = 4 ∨ k = 7) (h : AtPort k a) (hs : Rendering s) (v : Byte) :
    memWrite a v s = .refused (.portAccessWhileRendering (BitVec.ofNat 3 k)) := by
  rw [memWrite_inPorts h.1, portOf_eq_ofNat, h.2]
  rcases hk with rfl | rfl
  · exact writeOamData_rendering hs v
  · exact writeData_rendering hs v

/-- While rendering, a read of port 4 or 7 and then a write of the same address are refused: at port 7 the read (R312), at
port 4, whose read goes on with a free value (R309), the write. -/
theorem memRead_memWrite_port_refused {k : Nat} (hk : k = 4 ∨ k = 7) (h : AtPort k a) (hs : Rendering s)
    (result : Byte → Byte) (rest : Byte × State → State → Result State) :
    (andThen (memRead a s) fun m => andThen (memWrite a (result m.1) m.2) (rest m)) =
      .refused (.portAccessWhileRendering (BitVec.ofNat 3 k)) := by
  rcases hk with rfl | rfl
  · have hreadable : Readable a s := by
      unfold Readable Unmapped
      omega
    obtain ⟨m, hm⟩ := exists_memRead hreadable
    rw [hm, andThen_next, memWrite_port_refused (.inl rfl) h (rendering_of_memRead hm hs), andThen_refused]
  · rw [memRead_dataPort_refused h hs, andThen_refused]
    rfl

end

/-! ### The shapes -/

section
variable {mn : Mnemonic} {o : Operand} {s : State} {e : Effective}

theorem reading_refused (hmode : o.mode ∈ mn.modes) (he : effective o s = .next (e, s)) (h : AtPort 7 e.ea)
    (hs : Rendering s) (f : Byte → State → State) :
    reading mn o f s = .refused (.portAccessWhileRendering 7) := by
  obtain ⟨entry, hentry⟩ := Mnemonic.mem_modes.mp hmode
  have ho : ∀ b, o ≠ .imm b := by
    rintro b rfl
    cases he
  rw [reading, withEntry_some hentry, readOperand_mem ho, he, andThen_next, memRead_dataPort_refused h hs,
    andThen_refused, andThen_refused]

theorem storing_refused {k : Nat} (hk : k = 4 ∨ k = 7) (hmode : o.mode ∈ mn.modes)
    (he : effective o s = .next (e, s)) (h : AtPort k e.ea) (hs : Rendering s) (v : Byte) :
    storing mn o v s = .refused (.portAccessWhileRendering (BitVec.ofNat 3 k)) := by
  obtain ⟨entry, hentry⟩ := Mnemonic.mem_modes.mp hmode
  rw [storing, withEntry_some hentry, he, andThen_next, memWrite_port_refused hk h hs, andThen_refused]

theorem modifying_refused {k : Nat} (hk : k = 4 ∨ k = 7) (hmode : o.mode ∈ mn.modes)
    (he : effective o s = .next (e, s)) (h : AtPort k e.ea) (hs : Rendering s) (r : Byte → Byte)
    (f : Byte → State → State) :
    modifying mn o r f s = .refused (.portAccessWhileRendering (BitVec.ofNat 3 k)) := by
  obtain ⟨entry, hentry⟩ := Mnemonic.mem_modes.mp hmode
  rw [modifying, withEntry_some hentry, he, andThen_next]
  exact memRead_memWrite_port_refused hk h hs r _

end

/-! ### The instructions -/

/-- The reading forms at an operand (R200, R225, R245). -/
abbrev readingForms (o : Operand) : List Instr :=
  [.lda o, .ldx o, .ldy o, .adc o, .sbc o, .cmp o, .cpx o, .cpy o, .and o, .ora o, .eor o, .bit o]

section
variable {o : Operand} {i : Instr} {s : State}

/-- Every reading form has the reading shape; ADC and SBC where their arithmetic is binary (R240). -/
theorem exec_readingForm (hi : i ∈ readingForms o)
    (hbinary : i ∈ [Instr.adc o, .sbc o] → s.params.decimalEnabled = false ∨ s.cpu.p.d = false) :
    ∃ mn f, i.parts = some (mn, o) ∧ exec i s = reading mn o f s := by
  simp only [List.mem_cons, List.not_mem_nil, or_false] at hi
  rcases hi with rfl | rfl | rfl | rfl | rfl | rfl | rfl | rfl | rfl | rfl | rfl | rfl <;>
    simp only [exec, execLda, execLdx, execLdy, execAdc, execSbc, execCmp, execCpx, execCpy, execAnd, execOra, execEor,
      execBit]
  · exact ⟨_, _, rfl, rfl⟩
  · exact ⟨_, _, rfl, rfl⟩
  · exact ⟨_, _, rfl, rfl⟩
  · exact ⟨_, _, rfl, binary_eq (hbinary (by simp)) _⟩
  · exact ⟨_, _, rfl, binary_eq (hbinary (by simp)) _⟩
  · exact ⟨_, _, rfl, rfl⟩
  · exact ⟨_, _, rfl, rfl⟩
  · exact ⟨_, _, rfl, rfl⟩
  · exact ⟨_, _, rfl, rfl⟩
  · exact ⟨_, _, rfl, rfl⟩
  · exact ⟨_, _, rfl, rfl⟩
  · exact ⟨_, _, rfl, rfl⟩

/-- Every storing form on memory has the storing shape or that of a read-modify-write. -/
theorem exec_storingForm (hi : i ∈ storingForms o) (ho : o ≠ .acc) :
    ∃ mn, i.parts = some (mn, o) ∧
      ((∃ v, exec i s = storing mn o v s) ∨ ∃ r f, exec i s = modifying mn o r f s) := by
  simp only [List.mem_cons, List.not_mem_nil, or_false] at hi
  rcases hi with rfl | rfl | rfl | rfl | rfl | rfl | rfl | rfl | rfl <;>
    simp only [exec, execSta, execStx, execSty, execInc, execDec, execAsl, execLsr, execRol, execRor]
  · exact ⟨_, rfl, .inl ⟨_, rfl⟩⟩
  · exact ⟨_, rfl, .inl ⟨_, rfl⟩⟩
  · exact ⟨_, rfl, .inl ⟨_, rfl⟩⟩
  · exact ⟨_, rfl, .inr ⟨_, _, rfl⟩⟩
  · exact ⟨_, rfl, .inr ⟨_, _, rfl⟩⟩
  · exact ⟨_, rfl, .inr ⟨_, _, shifting_mem ho _ s⟩⟩
  · exact ⟨_, rfl, .inr ⟨_, _, shifting_mem ho _ s⟩⟩
  · exact ⟨_, rfl, .inr ⟨_, _, shifting_mem ho _ s⟩⟩
  · exact ⟨_, rfl, .inr ⟨_, _, shifting_mem ho _ s⟩⟩

/-- While rendering, a storing form at port 4 or 7 is refused (R310, R313, D41). -/
theorem exec_storingForm_refused {k : Nat} {e : Effective} (hk : k = 4 ∨ k = 7) (hi : i ∈ storingForms o)
    (hwf : i.wellFormed = true) (he : effective o s = .next (e, s)) (h : AtPort k e.ea) (hs : Rendering s) :
    exec i s = .refused (.portAccessWhileRendering (BitVec.ofNat 3 k)) := by
  have ho : o ≠ .acc := by
    rintro rfl
    cases he
  obtain ⟨mn, hparts, ⟨v, hexec⟩ | ⟨r, f, hexec⟩⟩ := exec_storingForm (s := s) hi ho
  · rw [hexec, storing_refused hk ((Instr.wellFormed_of_parts hparts).mp hwf) he h hs]
  · rw [hexec, modifying_refused hk ((Instr.wellFormed_of_parts hparts).mp hwf) he h hs]

end

end Sys2Proof.Machine

namespace Sys2Proof.Spec

open Sys2Proof.Machine

/-- Settles O13: a reading form stops at its one read, a storing form at its write or at the read before it. -/
theorem accessesRefusedWhileRendering : Obligations.AccessesRefusedWhileRendering := by
  intro s o i e hwf he hs
  refine ⟨fun hi hbinary h => ?_, fun hi => ⟨fun h => ?_, fun h => ?_⟩⟩
  · obtain ⟨mn, f, hparts, hexec⟩ := exec_readingForm hi hbinary
    rw [hexec, reading_refused ((Instr.wellFormed_of_parts hparts).mp hwf) he h hs]
  · exact exec_storingForm_refused (.inl rfl) hi hwf he h hs
  · exact exec_storingForm_refused (.inr rfl) hi hwf he h hs

end Sys2Proof.Spec
end

section
/-! SUPPORT. The NMI request (O35): what becomes of a pending request in a CPU cycle and in the dot after it
(60_exceptions.md R433 to R435; 92_eei_decisions.md D31). -/

namespace Sys2Proof.Machine

open Sys2Proof.Spec

/-- A CPU cycle with a request pending is a stall cycle, which keeps it, or takes the entry (R402, R439). -/
theorem cpuCycle_pending {s t : State} (hpending : s.cpu.nmiPending = true) (h : cpuCycle s = .next t) :
    t.cpu.nmiPending = true ∨ (s.cpu.stall = 0 ∧ nmiEntry (s.setCyc (s.cpu.cyc + 1)) = .next t) := by
  obtain ⟨-, rfl⟩ | ⟨hstall, hstep⟩ := cpuCycle_cases h
  · exact .inl hpending
  · rw [cpuStep_nmi (s := s.setCyc (s.cpu.cyc + 1)) hpending] at hstep
    exact .inr ⟨hstall, hstep⟩

/-- An NMI entry goes to the NMI vector with I set (R434). -/
theorem nmiEntry_vector {s t : State} (h : nmiEntry s = .next t) :
    t.cpu.pc = vectorWord s s.params.vecNmi ∧ t.cpu.p.i = true := by
  rw [nmiEntry, enterInterrupt_eq] at h
  cases h
  exact ⟨vector_eq_vectorWord s _, rfl⟩

end Sys2Proof.Machine

namespace Sys2Proof.Spec

open Sys2Proof.Machine

/-- Settles O35: the dot keeps a pending request, and so does every CPU cycle but the one that takes the entry. -/
theorem nmiRequestsLatchAndStay : Obligations.NmiRequestsLatchAndStay := by
  refine ⟨fun s => ?_, fun s t hpending h => ?_⟩
  · rw [updateNmi, Bool.and_comm (!s.ppu.nmiLine)]
  · obtain ⟨-, -, ⟨htick, u, hu, rfl⟩ | ⟨-, rfl⟩⟩ := step_cases h
    · obtain hkept | ⟨hstall, hentry⟩ := cpuCycle_pending hpending hu
      · exact .inl (ppuDot_pending hkept)
      · obtain ⟨hpc, hi⟩ := nmiEntry_vector hentry
        rw [endTick_cpu_pc, endTick_cpu_p]
        exact .inr ⟨beq_iff_eq.mp htick, hstall, hpc, hi⟩
    · exact .inl (ppuDot_pending hpending)

end Sys2Proof.Spec
end

section
/-! SUPPORT. Calls, returns and interrupt entries (O28, O31, O32, O33): the stack bytes that two and three pushes write and the
same number of pulls read, on numbers, and from these the rule of each (44_control.md R262, R263; 45_flags_system.md R288, R289;
60_exceptions.md R434, R436, R440). -/

namespace Sys2Proof.Machine

open Sys2Proof.Spec

/-! ### The stack on numbers -/

theorem hiByte_eq_ofNat (w : Word) : hiByte w = BitVec.ofNat 8 (w.toNat / 256) := by
  rw [← toNat_hiByte, BitVec.ofNat_toNat, BitVec.setWidth_eq]

theorem loByte_eq_ofNat (w : Word) : loByte w = BitVec.ofNat 8 (w.toNat % 256) := by
  rw [← toNat_loByte, BitVec.ofNat_toNat, BitVec.setWidth_eq]

/-- SP lowered and raised is SP moved by a number modulo 256 (R13). -/
theorem sp_sub_eq_ofNat (sp : Byte) : sp - 2 = BitVec.ofNat 8 (sp.toNat + 254) ∧ sp - 3 = BitVec.ofNat 8 (sp.toNat + 253) := by
  constructor <;> bv_omega

theorem sp_add_eq_ofNat (sp : Byte) (k : Nat) : sp + BitVec.ofNat 8 k = BitVec.ofNat 8 (sp.toNat + k) := by
  rw [BitVec.ofNat_add, BitVec.ofNat_toNat, BitVec.setWidth_eq]

/-- The stack bytes below SP, where the second and the third push of a row go. -/
theorem ramIndex_stackAddr_sub (s : State) :
    ramIndex (stackAddr (s.cpu.sp - 1)) = stackIndex s 255 ∧ ramIndex (stackAddr (s.cpu.sp - 2)) = stackIndex s 254 := by
  have hone : s.cpu.sp - 1 = s.cpu.sp + BitVec.ofNat 8 255 := by bv_omega
  have htwo : s.cpu.sp - 2 = s.cpu.sp + BitVec.ofNat 8 254 := by bv_omega
  rw [hone, htwo, ramIndex_stackAddr_add, ramIndex_stackAddr_add]
  exact ⟨rfl, rfl⟩

/-- A stack byte above SP, as a pull reads it (R13). -/
theorem ramRead_stackAddr_add (s : State) (k : Nat) :
    ramRead (stackAddr (s.cpu.sp + BitVec.ofNat 8 k)) s = s.mem.ramByte (stackIndex s k) := by
  rw [ramRead, ramIndex_stackAddr_add]

/-- Stack bytes at different distances from SP are different. -/
theorem stackIndex_inj (s : State) {j k : Nat} (hj : j < 256) (hk : k < 256) :
    stackIndex s j = stackIndex s k ↔ j = k := by
  unfold stackIndex
  omega

/-- With SP moved by `d`, a stack byte is the one that many places further on. -/
theorem stackIndex_of_sp {s u : State} {d : Nat} (h : u.cpu.sp = BitVec.ofNat 8 (s.cpu.sp.toNat + d)) (k : Nat) :
    stackIndex u k = stackIndex s (d + k) := by
  rw [stackIndex, stackIndex, h, BitVec.toNat_ofNat]
  omega

/-- The stack page has 256 bytes. -/
theorem stackIndex_wrap (s : State) : stackIndex s 256 = stackIndex s 0 := by
  unfold stackIndex
  omega

/-- SP goes down and up again to what it was, modulo 256 (R13). -/
theorem sp_raised_of_sp_lowered {sp sp' : Byte} {d k : Nat} (h : sp' = BitVec.ofNat 8 (sp.toNat + d))
    (hturn : d + k = 256) : BitVec.ofNat 8 (sp'.toNat + k) = sp := by
  apply BitVec.eq_of_toNat_eq
  rw [h, BitVec.toNat_ofNat, BitVec.toNat_ofNat]
  omega

/-! ### Two and three pushes -/

/-- The two bytes that a call pushes, the high one first (R262). -/
theorem pushWord_eq (w : Word) (s : State) :
    pushWord w s = { s with
      cpu := { s.cpu with sp := BitVec.ofNat 8 (s.cpu.sp.toNat + 254) }
      mem := (s.mem.putRam (stackIndex s 0) (BitVec.ofNat 8 (w.toNat / 256))).putRam (stackIndex s 255)
        (BitVec.ofNat 8 (w.toNat % 256)) } := by
  have hsp : BitVec.ofNat 8 ((BitVec.ofNat 8 (s.cpu.sp.toNat + 255)).toNat + 255) =
      BitVec.ofNat 8 (s.cpu.sp.toNat + 254) := by bv_omega
  rw [pushWord, push_eq, push_eq, hiByte_eq_ofNat, loByte_eq_ofNat]
  dsimp only
  rw [hsp, stackIndex_of_sp (s := s) rfl]

/-- What an interrupt entry answers, on numbers (R440). -/
theorem exists_enterInterrupt (ret : Word) (status : Byte) (vector : Word) (n : Nat) (s : State) :
    ∃ t, enterInterrupt ret status vector n s = .next t ∧
      t.cpu = { s.cpu with
        sp := BitVec.ofNat 8 (s.cpu.sp.toNat + 253), p := { s.cpu.p with i := true }, pc := vectorWord s vector
        stall := n - 1 } ∧
      RamWrites s t (threePushed s ret status) := by
  obtain ⟨hsecond, hthird⟩ := ramIndex_stackAddr_sub s
  have hbelow : stackIndex s 0 ≠ stackIndex s 255 ∧ stackIndex s 0 ≠ stackIndex s 254 ∧
      stackIndex s 255 ≠ stackIndex s 254 := by
    simp [stackIndex_inj]
  rw [enterInterrupt_eq, ramIndex_stackAddr_sp, hsecond, hthird, vector_eq_vectorWord, (sp_sub_eq_ofNat _).2]
  refine ⟨_, rfl, rfl, fun k => ?_, ⟨rfl, rfl, rfl, rfl⟩, rfl⟩
  simp only [Memory.ramByte_putRam, threePushed, hiByte_eq_ofNat, loByte_eq_ofNat]
  grind

/-- The status byte that NMI and IRQ push, on numbers: bit 4 as the parameter says (R27, R434, R436). -/
theorem Flags.pushedByHardware_eq_statusByte (p : Flags) (k : Params) :
    p.pushedByHardware k = statusByte k.bOnHwInterrupt p := by
  have hclear : ∀ n v b d i z c, Flags.pack ⟨n, v, b, d, i, z, c⟩ &&& 0xEF = statusByte false ⟨n, v, b, d, i, z, c⟩ := by
    decide
  unfold Flags.pushedByHardware
  cases k.bOnHwInterrupt
  · exact hclear p.n p.v p.b p.d p.i p.z p.c
  · exact p.pushed_eq_statusByte

/-! ### Two and three pulls -/

/-- What a return from an interrupt answers, on numbers (R289). -/
theorem returnFromInterrupt_eq_retired (n : Nat) (s : State) :
    returnFromInterrupt n s = .next (retired
      (BitVec.ofNat 16 ((s.mem.ramByte (stackIndex s 3)).toNat * 256 + (s.mem.ramByte (stackIndex s 2)).toNat)) n
      { s with cpu := { s.cpu with
        sp := BitVec.ofNat 8 (s.cpu.sp.toNat + 3), p := restored (s.mem.ramByte (stackIndex s 1)) s.cpu.p } }) := by
  rw [← joinBytes_eq_ofNat, ← sp_add_eq_ofNat, ← Flags.unpack_eq_restored, ← ramRead_stackAddr_add,
    ← ramRead_stackAddr_add, ← ramRead_stackAddr_add, returnFromInterrupt_eq]
  rfl

/-- What a return from a subroutine answers, on numbers (R263). -/
theorem finish_pullWord (n : Nat) (s : State) :
    finish ((pullWord s).1 + 1) n (pullWord s).2 = .next (retired
      (BitVec.ofNat 16 ((s.mem.ramByte (stackIndex s 2)).toNat * 256 + (s.mem.ramByte (stackIndex s 1)).toNat + 1)) n
      { s with cpu := { s.cpu with sp := BitVec.ofNat 8 (s.cpu.sp.toNat + 2) } }) := by
  rw [BitVec.ofNat_add, ← joinBytes_eq_ofNat, ← sp_add_eq_ofNat, ← ramRead_stackAddr_add, ← ramRead_stackAddr_add,
    pullWord_fst, pullWord_snd]
  rfl

/-- A word put together from its two bytes (R10). -/
theorem toNat_highAndLow (w : Word) :
    (BitVec.ofNat 8 (w.toNat / 256)).toNat * 256 + (BitVec.ofNat 8 (w.toNat % 256)).toNat = w.toNat := by
  rw [BitVec.toNat_ofNat, BitVec.toNat_ofNat]
  omega

/-- The bytes that an interrupt entry leaves at the three places it pushes to. -/
theorem threePushed_stackIndex (s : State) (ret : Word) (status : Byte) :
    threePushed s ret status (stackIndex s 0) = some (BitVec.ofNat 8 (ret.toNat / 256)) ∧
      threePushed s ret status (stackIndex s 255) = some (BitVec.ofNat 8 (ret.toNat % 256)) ∧
      threePushed s ret status (stackIndex s 254) = some status := by
  simp [threePushed, stackIndex_inj]

end Sys2Proof.Machine

namespace Sys2Proof.Spec

open Sys2Proof.Machine

/-- Settles O28: JSR pushes two bytes, RTS pulls them. -/
theorem subroutineCallAndReturn : Obligations.SubroutineCallAndReturn := by
  refine ⟨encodings_of_entries rfl, encodings_of_entries rfl, fun s target => ?_, fun s => finish_pullWord _ s⟩
  have hbelow : stackIndex s 0 ≠ stackIndex s 255 := by simp [stackIndex_inj]
  have hexec : exec (.jsr target) s = finish target (s.params.cycles 0x20) (pushWord (plus s.cpu.pc 2) s) := by
    rw [plus_eq_add]
    rfl
  rw [hexec, pushWord_eq]
  refine ⟨_, rfl, rfl, fun k => ?_, ⟨rfl, rfl, rfl, rfl⟩, rfl⟩
  simp only [State.setStall_mem, State.setPc_mem, Memory.ramByte_putRam]
  grind

/-- Settles O31: BRK is an interrupt entry, RTI the return from one. -/
theorem breakAndReturnFromInterrupt : Obligations.BreakAndReturnFromInterrupt := by
  refine ⟨encodings_of_entries rfl, encodings_of_entries rfl, fun s => ?_,
    fun s => returnFromInterrupt_eq_retired _ s⟩
  rw [← Flags.pushed_eq_statusByte, plus_eq_add]
  exact exists_enterInterrupt (s.cpu.pc + 2) s.cpu.p.pushed s.params.vecIrq (s.params.cycles 0x00) s

/-- Settles O32: SP goes down and up again, so the bytes pulled are those pushed, from the rules of the calls and breaks and
of their returns (O28, O31). -/
theorem returnsUndoCallsAndBreaks : Obligations.ReturnsUndoCallsAndBreaks := by
  obtain ⟨-, -, hcall, hreturn⟩ := subroutineCallAndReturn
  obtain ⟨-, -, hbreak, hrti⟩ := breakAndReturnFromInterrupt
  refine ⟨fun s target => ?_, fun s => ?_⟩
  · obtain ⟨t, ht, htcpu, htram⟩ := hcall s target
    refine ⟨t, ht, by rw [htcpu], fun u husp hhigh hlow => ⟨_, hreturn u, ?_, ?_, rfl⟩⟩
    all_goals have hsp : u.cpu.sp = BitVec.ofNat 8 (s.cpu.sp.toNat + 254) := by rw [husp, htcpu]
    · have hbelow : stackIndex s 255 ≠ stackIndex s 0 := by simp [stackIndex_inj]
      have hpch : u.mem.ramByte (stackIndex u 2) = BitVec.ofNat 8 ((plus s.cpu.pc 2).toNat / 256) := by
        rw [stackIndex_of_sp hsp, stackIndex_wrap, hhigh, htram.ram, if_pos rfl, Option.getD_some]
      have hpcl : u.mem.ramByte (stackIndex u 1) = BitVec.ofNat 8 ((plus s.cpu.pc 2).toNat % 256) := by
        rw [stackIndex_of_sp hsp, hlow, htram.ram, if_neg hbelow, if_pos rfl, Option.getD_some]
      rw [hpch, hpcl, toNat_highAndLow]
      exact plus_plus s.cpu.pc 2 1
    · exact sp_raised_of_sp_lowered hsp rfl
  · obtain ⟨t, ht, htcpu, htram⟩ := hbreak s
    obtain ⟨hhigh, hlow, hstatus⟩ := threePushed_stackIndex s (plus s.cpu.pc 2) (statusByte true s.cpu.p)
    refine ⟨t, ht, fun u husp hb hbytes => ⟨_, hrti u, ?_, ?_, ?_⟩⟩
    all_goals have hsp : u.cpu.sp = BitVec.ofNat 8 (s.cpu.sp.toNat + 253) := by rw [husp, htcpu]
    · have hpch : u.mem.ramByte (stackIndex u 3) = BitVec.ofNat 8 ((plus s.cpu.pc 2).toNat / 256) := by
        rw [stackIndex_of_sp hsp, stackIndex_wrap, hbytes 0 (.inl rfl), htram.ram, hhigh, Option.getD_some]
      have hpcl : u.mem.ramByte (stackIndex u 2) = BitVec.ofNat 8 ((plus s.cpu.pc 2).toNat % 256) := by
        rw [stackIndex_of_sp hsp, hbytes 255 (.inr (.inl rfl)), htram.ram, hlow, Option.getD_some]
      rw [hpch, hpcl, toNat_highAndLow, BitVec.ofNat_toNat, BitVec.setWidth_eq]
      rfl
    · have hp : u.mem.ramByte (stackIndex u 1) = statusByte true s.cpu.p := by
        rw [stackIndex_of_sp hsp, hbytes 254 (.inr (.inr rfl)), htram.ram, hstatus, Option.getD_some]
      rw [hp]
      exact restored_statusByte true s.cpu.p u.cpu.p hb
    · exact sp_raised_of_sp_lowered hsp rfl

/-- Settles O33: both are interrupt entries, NMI's from the state with the latch cleared. -/
theorem nmiAndIrqEntries : Obligations.NmiAndIrqEntries := by
  intro s entered status
  have hstatus : s.cpu.p.pushedByHardware s.params = status := Flags.pushedByHardware_eq_statusByte _ _
  refine ⟨?_, ?_⟩
  · obtain ⟨t, ht, hcpu, ⟨hram, hothers, hrest⟩⟩ :=
      exists_enterInterrupt s.cpu.pc status s.params.vecNmi s.params.intCycles (s.setNmiPending false)
    rw [nmiEntry, hstatus]
    exact ⟨t, ht, hcpu, ⟨hram, hothers, hrest⟩⟩
  · rw [irqEntry, hstatus]
    exact exists_enterInterrupt s.cpu.pc status s.params.vecIrq s.params.intCycles s

end Sys2Proof.Spec
end

section
/-! SUPPORT. JMP (O27): the second address of its pointer on numbers, and what a bus read leaves of what decides the next one
(44_control.md R261; 30_encoding.md R136; 92_eei_decisions.md D9, D41). -/

namespace Sys2Proof.Machine

open Sys2Proof.Spec

/-! ### A bus read after a bus read -/

section
variable {a b : Word} {s : State} {r : Byte × State}

/-- A bus read leaves what decides whether an address is mapped and whether the PPU is rendering. -/
theorem unmapped_of_memRead (h : memRead a s = .next r) : Unmapped b r.2 ↔ Unmapped b s := by
  unfold Unmapped
  rw [(memRead_frame h).params]

theorem rendering_memRead_iff (h : memRead a s = .next r) : Rendering r.2 ↔ Rendering s := by
  have hframe := memRead_frame h
  unfold Rendering
  rw [hframe.params, hframe.scanline, memRead_mask h]

theorem readable_memRead_iff (h : memRead a s = .next r) : Readable b r.2 ↔ Readable b s := by
  unfold Readable
  rw [unmapped_of_memRead h, rendering_memRead_iff h]

end

/-! ### The pointer -/

/-- The address of a pointer's high byte, on numbers: in the page of the low byte, or the next address (R136, U13). -/
theorem pointerHigh_eq (pageWrap : Bool) (w : Word) :
    pointerHigh pageWrap w =
      if pageWrap then BitVec.ofNat 16 (w.toNat / 256 * 256 + (w.toNat + 1) % 256) else plus w 1 := by
  have hlow : (loByte w + 1).toNat = (w.toNat + 1) % 256 := by
    rw [BitVec.toNat_add, toNat_loByte]
    exact Nat.mod_add_mod w.toNat 256 1
  rw [pointerHigh, joinBytes_eq_ofNat, toNat_hiByte, hlow, plus_eq_add]
  rfl

/-- JMP through a pointer is the read of its two bytes and the jump (R136, R261). -/
theorem exec_jmp_ind (w : Word) (s : State) :
    exec (.jmp (.ind w)) s = andThen (memRead w s) fun lo =>
      andThen (memRead (pointerHigh s.params.jmpIndPageWrap w) lo.2) fun hi =>
        .next (retired (BitVec.ofNat 16 (hi.1.toNat * 256 + lo.1.toNat)) (s.params.cycles 0x6C) hi.2) := by
  have hexec : exec (.jmp (.ind w)) s =
      andThen (effective (.ind w) s) fun e => finish e.1.ea (s.params.cycles 0x6C) e.2 := rfl
  simp only [hexec, effective, readPointer, andThen_assoc, andThen_next, direct, joinBytes_eq_ofNat]
  rfl

end Sys2Proof.Machine

namespace Sys2Proof.Spec

open Sys2Proof.Machine

/-- Settles O27: through a pointer a jump stops where one of its two reads does; the first leaves what decides about the
second. -/
theorem jumpsGoToTheirTarget : Obligations.JumpsGoToTheirTarget := by
  refine ⟨encodings_of_entries rfl, fun s w => ?_⟩
  intro second
  have hsecond : pointerHigh s.params.jmpIndPageWrap w = second := pointerHigh_eq _ w
  rw [exec_jmp_ind, hsecond]
  refine ⟨rfl, fun hw h => ?_, fun hw => ?_, fun hw h => ?_, fun h hs => ?_⟩
  · obtain ⟨⟨lo, t⟩, hlo⟩ := exists_memRead hw
    obtain ⟨⟨hi, u⟩, hhi⟩ := exists_memRead ((readable_memRead_iff hlo).mpr h)
    refine ⟨lo, hi, t, u, hlo, hhi, ?_⟩
    rw [hlo, andThen_next, hhi, andThen_next]
  · rw [memRead_unmapped hw, andThen_fault]
  · obtain ⟨⟨lo, t⟩, hlo⟩ := exists_memRead hw
    rw [hlo, andThen_next, memRead_unmapped ((unmapped_of_memRead hlo).mpr h), andThen_fault, memRead_cpu hlo]
  · obtain hport | ⟨hw, hport⟩ := h
    · rw [memRead_dataPort_refused hport hs, andThen_refused]
    · obtain ⟨⟨lo, t⟩, hlo⟩ := exists_memRead hw
      rw [hlo, andThen_next, memRead_dataPort_refused hport (rendering_of_memRead hlo hs), andThen_refused]

end Sys2Proof.Spec
end

section
/-! SUPPORT. ADC and SBC (O18 to O21): the sum, the carry and the overflow on numbers, the rule of the binary arithmetic, and that
a bus access does not see the flags (42_arithmetic.md R226, R227, R240, R241). -/

namespace Sys2Proof.Machine

open Sys2Proof.Spec

/-! ### The overflow bit -/

theorem and_0x80_ne_zero (m : Byte) : (m &&& 0x80#8 != 0) = m.getLsbD 7 := by
  revert m; decide

/-- V of ADC by the sign bits: both operands have one sign and the result the other (R241). -/
theorem addWithCarry_v (a m : Byte) (c : Bool) :
    (addWithCarry a m c).v = (a.getLsbD 7 == m.getLsbD 7 && a.getLsbD 7 != (addWithCarry a m c).r.getLsbD 7) := by
  simp only [addWithCarry, and_0x80_ne_zero, BitVec.getLsbD_and, BitVec.getLsbD_not, BitVec.getLsbD_xor]
  grind

/-- V of SBC by the sign bits: the operands have different signs and the result not the first one's (R241). -/
theorem subWithBorrow_v (a m : Byte) (c : Bool) :
    (subWithBorrow a m c).v = (a.getLsbD 7 != m.getLsbD 7 && a.getLsbD 7 != (subWithBorrow a m c).r.getLsbD 7) := by
  simp only [subWithBorrow, and_0x80_ne_zero, BitVec.getLsbD_and, BitVec.getLsbD_xor]

/-- A byte as a signed number. -/
theorem toInt_eq (m : Byte) : m.toInt = if 0x80 ≤ m.toNat then (m.toNat : Int) - 256 else m.toNat := by
  rw [BitVec.toInt_eq_toNat_cond]
  split_ifs <;> omega

/-- The arithmetic of ADC on numbers (R226): the result, the unsigned outcome, and the signed sum outside a byte. -/
theorem addWithCarry_eq (a m : Byte) (c : Bool) :
    addWithCarry a m c =
      { r := BitVec.ofNat 8 ((a.toNat + m.toNat + c.toNat) % 256)
        c := decide (0xFF < a.toNat + m.toNat + c.toNat)
        v := decide (a.toInt + m.toInt + c.toNat < -128 ∨ 127 < a.toInt + m.toInt + c.toNat) } := by
  have ha := a.isLt
  have hm := m.isLt
  have hc := c.toNat_lt
  have hr : (addWithCarry a m c).r = BitVec.ofNat 8 ((a.toNat + m.toNat + c.toNat) % 256) := by
    apply BitVec.eq_of_toNat_eq
    simp [addWithCarry]
  have hv : (addWithCarry a m c).v =
      decide (a.toInt + m.toInt + c.toNat < -128 ∨ 127 < a.toInt + m.toInt + c.toNat) := by
    rw [addWithCarry_v, hr, Bool.eq_iff_iff]
    simp only [getLsbD_seven_eq, toInt_eq, BitVec.toNat_ofNat, Bool.and_eq_true, beq_iff_eq, bne_iff_ne, ne_eq,
      decide_eq_decide, decide_eq_true_eq]
    split_ifs <;> omega
  rw [← hr, ← hv]
  rfl

/-- The arithmetic of SBC on numbers (R227): the result, no borrow, and the signed difference outside a byte. -/
theorem subWithBorrow_eq (a m : Byte) (c : Bool) :
    subWithBorrow a m c =
      { r := BitVec.ofInt 8 ((a.toNat : Int) - m.toNat - (1 - c.toNat))
        c := decide (0 ≤ (a.toNat : Int) - m.toNat - (1 - c.toNat))
        v := decide (a.toInt - m.toInt - (1 - c.toNat) < -128 ∨ 127 < a.toInt - m.toInt - (1 - c.toNat)) } := by
  have ha := a.isLt
  have hm := m.isLt
  have hc := c.toNat_lt
  have hcomplement : (m ^^^ 0xFF).toNat = 255 - m.toNat := by
    have hnot : m ^^^ 0xFF = ~~~m := BitVec.xor_allOnes
    rw [hnot, BitVec.toNat_not]
  have hr : (subWithBorrow a m c).r = BitVec.ofInt 8 ((a.toNat : Int) - m.toNat - (1 - c.toNat)) := by
    apply BitVec.eq_of_toNat_eq
    simp only [subWithBorrow, hcomplement, BitVec.toNat_ofNat, BitVec.toNat_ofInt]
    omega
  have hcarry : (subWithBorrow a m c).c = decide (0 ≤ (a.toNat : Int) - m.toNat - (1 - c.toNat)) := by
    simp only [subWithBorrow, hcomplement, decide_eq_decide]
    omega
  have hv : (subWithBorrow a m c).v =
      decide (a.toInt - m.toInt - (1 - c.toNat) < -128 ∨ 127 < a.toInt - m.toInt - (1 - c.toNat)) := by
    rw [subWithBorrow_v, hr, Bool.eq_iff_iff]
    simp only [getLsbD_seven_eq, toInt_eq, BitVec.toNat_ofInt, Bool.and_eq_true, bne_iff_ne, ne_eq,
      decide_eq_decide, decide_eq_true_eq]
    split_ifs <;> omega
  rw [← hr, ← hcarry, ← hv]

/-! ### The rule -/

/-- The work of ADC and SBC with the arithmetic `alu`: A, C, V, Z and N (R226, R227). -/
def aluWork (alu : Byte → Byte → Bool → AluResult) (m : Byte) (s : State) : State :=
  (s.setA (alu s.cpu.a m s.cpu.p.c).r).setFlags (s.cpu.p.afterAlu (alu s.cpu.a m s.cpu.p.c))

/-- The rule of an instruction whose arithmetic is `alu` (R240, U12). -/
theorem binaryRule_of_binary {i : Operand → Instr} {mn : Mnemonic} {table : List (Mode × Byte × Nat)}
    {alu : Byte → Byte → Bool → AluResult} (henc : Encodings mn table) (hparts : ∀ o, (i o).parts = some (mn, o))
    (hexec : ∀ o s, exec (i o) s = binary s (reading mn o (aluWork alu) s)) :
    BinaryRule i mn table fun m c =>
      let q := alu c.a m c.p.c
      { c with a := q.r, p := withZN q.r { c.p with c := q.c, v := q.v } } := by
  refine ⟨henc, fun s o hwf => ?_⟩
  have hmode := (Instr.wellFormed_of_parts (hparts o)).mp hwf
  split_ifs with h
  · obtain ⟨hdecimal, hd⟩ := h
    rw [hexec, binary, hdecimal, hd]
    rfl
  · have hbinary : s.params.decimalEnabled = false ∨ s.cpu.p.d = false := by
      rw [← Bool.not_eq_true, ← Bool.not_eq_true]
      exact not_and_or.mp h
    refine readingStep_of_reading (f := aluWork alu) henc hmode ?_ (fun m u => ?_) fun _ _ => rfl
    · rw [hexec, binary_eq hbinary]
    · rw [aluWork, Flags.afterAlu, setZN_eq_withZN]
      rfl

/-- Where the arithmetic is binary, an immediate form goes on, with A and V from the sum. -/
theorem exists_exec_binary_imm {i : Instr} {mn : Mnemonic} {e : Entry} {alu : Byte → Byte → Bool → AluResult} {m : Byte}
    {s : State} (he : tableEntry mn .imm = some e) (hs : s.params.decimalEnabled = false ∨ s.cpu.p.d = false)
    (hexec : exec i s = binary s (reading mn (.imm m) (aluWork alu) s)) :
    ∃ t, exec i s = .next t ∧ t.cpu.a = (alu s.cpu.a m s.cpu.p.c).r ∧ t.cpu.p.v = (alu s.cpu.a m s.cpu.p.c).v := by
  rw [hexec, binary_eq hs]
  exact ⟨_, reading_eq_next.mpr ⟨e, _, he, rfl, rfl⟩, rfl, rfl⟩

/-! ### D and the bus -/

/-- The state with D set to `d` (R31). -/
def State.setD (d : Bool) (s : State) : State := s.setFlags { s.cpu.p with d := d }

section
variable (d : Bool) (s : State)

/-- A bus access does not see D: it answers the same byte and leaves D as it found it. -/
theorem portRead_setD (p : BitVec 3) :
    portRead p (s.setD d) = andThen (portRead p s) fun r => .next (r.1, r.2.setD d) := by
  have hdata : readData (s.setD d) = andThen (readData s) fun r => .next (r.1, r.2.setD d) := by
    by_cases h : Rendering s
    · rw [readData_rendering h, readData_rendering (s := s.setD d) h, andThen_refused]
    · rcases Nat.lt_or_ge 0x3EFF s.ppu.dataAddr.toNat with ha | ha
      · rw [readData_palette h ha, readData_palette (s := s.setD d) h ha]
        rfl
      · rw [readData_buffered h ha, readData_buffered (s := s.setD d) h ha]
        rfl
  have hoam : readOamData (s.setD d) = ((readOamData s).1, (readOamData s).2.setD d) := by
    by_cases h : Rendering s
    · rw [readOamData_rendering h, readOamData_rendering (s := s.setD d) h]
      rfl
    · rw [readOamData_idle h, readOamData_idle (s := s.setD d) h]
      rfl
  unfold portRead
  split_ifs
  · rfl
  · rw [hoam, andThen_next]
  · exact hdata
  · rfl

theorem memRead_setD (a : Word) : memRead a (s.setD d) = andThen (memRead a s) fun r => .next (r.1, r.2.setD d) := by
  rcases window_cases a with h | h | rfl | h | h
  · rw [memRead_inRam h, memRead_inRam h]
    rfl
  · rw [memRead_inPorts h, memRead_inPorts h, portRead_setD]
  · rfl
  · rw [memRead_inHole h, memRead_inHole h]
    cases hpolicy : s.params.holePolicy
    · rw [holeRead_fault hpolicy, holeRead_fault (s := s.setD d) hpolicy]
      rfl
    · rw [holeRead_ram hpolicy, holeRead_ram (s := s.setD d) hpolicy]
      rfl
  · rw [memRead_inPrg h, memRead_inPrg h]
    rfl

theorem readPointer_setD (lo hi : Word) :
    readPointer lo hi (s.setD d) = andThen (readPointer lo hi s) fun r => .next (r.1, r.2.setD d) := by
  simp only [readPointer, memRead_setD, andThen_assoc, andThen_next]

theorem effective_setD (o : Operand) :
    effective o (s.setD d) = andThen (effective o s) fun r => .next (r.1, r.2.setD d) := by
  cases o with
  | ind w =>
    simp only [effective, readPointer_setD, andThen_assoc, andThen_next]
    rfl
  | izx b => rw [effective_izx, effective_izx]; rfl
  | izy b => rw [effective_izy, effective_izy]; rfl
  | _ => rfl

theorem readOperand_setD (o : Operand) :
    readOperand o (s.setD d) = andThen (readOperand o s) fun m => .next { m with after := m.after.setD d } := by
  by_cases ho : ∃ b, o = .imm b
  · obtain ⟨b, rfl⟩ := ho
    rfl
  · have ho := not_exists.mp ho
    simp only [readOperand_mem ho, effective_setD, memRead_setD, andThen_assoc, andThen_next]

theorem reading_aluWork_setD (mn : Mnemonic) (o : Operand) (alu : Byte → Byte → Bool → AluResult) :
    reading mn o (aluWork alu) (s.setD d) = andThen (reading mn o (aluWork alu) s) fun t => .next (t.setD d) := by
  unfold reading withEntry
  cases tableEntry mn o.mode with
  | none => rfl
  | some e =>
    dsimp only
    rw [readOperand_setD, andThen_assoc, andThen_assoc]
    rfl

/-- With `DECIMAL_ENABLED` false, ADC and SBC with D set to `d` first end as they do without, but for D (R240). -/
theorem binary_aluWork_setD {s : State} (h : s.params.decimalEnabled = false) (mn : Mnemonic) (o : Operand)
    (alu : Byte → Byte → Bool → AluResult) :
    binary (s.setD d) (reading mn o (aluWork alu) (s.setD d)) =
      andThen (binary s (reading mn o (aluWork alu) s)) fun t => .next (t.setD d) := by
  rw [binary_eq (.inl h), binary_eq (s := s.setD d) (.inl h), reading_aluWork_setD]

end

end Sys2Proof.Machine

namespace Sys2Proof.Spec

open Sys2Proof.Machine

/-- Settles O18: the rule of the binary arithmetic, with the sum on numbers. -/
theorem adcAddsWithCarry : Obligations.AdcAddsWithCarry := by
  have hrule := binaryRule_of_binary (i := .adc) (mn := .adc) (alu := addWithCarry) (encodings_of_entries rfl)
    (fun _ => rfl) fun _ _ => rfl
  simp only [addWithCarry_eq] at hrule
  exact hrule

/-- Settles O19: the rule of the binary arithmetic, with the difference on numbers. -/
theorem sbcSubtractsWithBorrow : Obligations.SbcSubtractsWithBorrow := by
  have hrule := binaryRule_of_binary (i := .sbc) (mn := .sbc) (alu := subWithBorrow) (encodings_of_entries rfl)
    (fun _ => rfl) fun _ _ => rfl
  simp only [subWithBorrow_eq] at hrule
  exact hrule

/-- Settles O20: V by the sign bits, whose eight cases are the table. -/
theorem overflowTruthTable : Obligations.OverflowTruthTable := by
  intro s m hs table
  refine ⟨?_, ?_⟩
  · obtain ⟨t, ht, ha, hv⟩ := exists_exec_binary_imm (i := .adc (.imm m)) (mn := .adc) (alu := addWithCarry) rfl hs rfl
    refine ⟨t, ht, ?_⟩
    rw [hv, ha, addWithCarry_v]
    cases s.cpu.a.getLsbD 7 <;> cases m.getLsbD 7 <;> cases (addWithCarry s.cpu.a m s.cpu.p.c).r.getLsbD 7 <;> rfl
  · obtain ⟨t, ht, ha, hv⟩ := exists_exec_binary_imm (i := .sbc (.imm m)) (mn := .sbc) (alu := subWithBorrow) rfl hs rfl
    refine ⟨t, ht, ?_⟩
    rw [hv, ha, subWithBorrow_v]
    cases s.cpu.a.getLsbD 7 <;> cases m.getLsbD 7 <;> cases (subWithBorrow s.cpu.a m s.cpu.p.c).r.getLsbD 7 <;> rfl

/-- Settles O21: neither the bus accesses of ADC and SBC nor their arithmetic see D. -/
theorem decimalFlagHasNoEffect : Obligations.DecimalFlagHasNoEffect := by
  intro s o i d hi hdecimal withD
  rcases hi with rfl | rfl
  · exact binary_aluWork_setD d hdecimal .adc o addWithCarry
  · exact binary_aluWork_setD d hdecimal .sbc o subWithBorrow

end Sys2Proof.Spec
end

section
/-! SUPPORT. The forms that store nothing (O11): each shape leaves the arrays as they were, since a bus read writes none
(40_load_store.md to 45_flags_system.md). -/

namespace Sys2Proof.Machine

open Sys2Proof.Spec

section
variable {mn : Mnemonic} {o : Operand} {s t : State}

theorem finish_mem {pc : Word} {n : Nat} (h : finish pc n s = .next t) : t.mem = s.mem := by
  cases h
  rfl

theorem implied_mem {f : State → State} (h : implied mn f s = .next t) (hf : ∀ u, (f u).mem = u.mem) :
    t.mem = s.mem := by
  obtain ⟨e, -, rfl⟩ := implied_eq_next.mp h
  simp [hf]

theorem reading_mem {f : Byte → State → State} (h : reading mn o f s = .next t) (hf : ∀ m u, (f m u).mem = u.mem) :
    t.mem = s.mem := by
  obtain ⟨e, m, -, hm, rfl⟩ := reading_eq_next.mp h
  simp [hf, (readOperand_frame hm).2]

theorem shifting_acc_mem {sh : Byte → ShiftResult} (h : shifting mn .acc sh s = .next t) : t.mem = s.mem := by
  rw [shifting_acc] at h
  obtain ⟨e, -, h⟩ := withEntry_eq_next.mp h
  exact (finish_mem h).trans rfl

theorem branching_mem {cond : Bool} {offset : Byte} (h : branching mn cond offset s = .next t) : t.mem = s.mem := by
  obtain ⟨e, he, -⟩ := withEntry_eq_next.mp h
  rw [branching_some he] at h
  cases h
  split <;> rfl

theorem execJmp_mem (h : execJmp o s = .next t) : t.mem = s.mem := by
  obtain ⟨e, -, h⟩ := withEntry_eq_next.mp h
  obtain ⟨a, ha, h⟩ := andThen_eq_next.mp h
  exact (finish_mem h).trans (effective_frame ha).2

theorem execRts_mem (h : execRts s = .next t) : t.mem = s.mem := by
  obtain ⟨e, -, h⟩ := withEntry_eq_next.mp h
  exact (finish_mem h).trans rfl

theorem execRti_mem (h : execRti s = .next t) : t.mem = s.mem := by
  obtain ⟨e, -, h⟩ := withEntry_eq_next.mp h
  rw [returnFromInterrupt_eq] at h
  cases h
  rfl

/-- A form that stores nothing leaves every array. -/
theorem exec_mem {i : Instr} (hi : storesOrPushes i = false) (h : exec i s = .next t) : t.mem = s.mem := by
  cases i with
  | lda | ldx | ldy | cmp | cpx | cpy | and | ora | eor | bit =>
    simp only [exec, execLda, execLdx, execLdy, execCmp, execCpx, execCpy, execAnd, execOra, execEor, execBit] at h
    exact reading_mem h fun _ _ => rfl
  | adc | sbc =>
    simp only [exec, execAdc, execSbc] at h
    exact reading_mem (binary_eq_next.mp h).2 fun _ _ => rfl
  | asl o | lsr o | rol o | ror o =>
    obtain rfl : o = .acc := by simpa [storesOrPushes] using hi
    simp only [exec, execAsl, execLsr, execRol, execRor] at h
    exact shifting_acc_mem h
  | tax | tay | txa | tya | tsx | txs | pla | plp | inx | iny | dex | dey
  | clc | sec | cli | sei | cld | sed | clv | nop =>
    simp only [exec, execTax, execTay, execTxa, execTya, execTsx, execTxs, execPla, execPlp, execInx, execIny, execDex,
      execDey, execClc, execSec, execCli, execSei, execCld, execSed, execClv, execNop] at h
    exact implied_mem h fun _ => rfl
  | bcc | bcs | beq | bne | bmi | bpl | bvc | bvs =>
    simp only [exec, execBcc, execBcs, execBeq, execBne, execBmi, execBpl, execBvc, execBvs] at h
    exact branching_mem h
  | jmp => exact execJmp_mem h
  | rts => exact execRts_mem h
  | rti => exact execRti_mem h
  | sta | stx | sty | inc | dec | jsr | pha | php | brk => cases hi
  | undefinedOpcode => cases h

end

/-- Where no array and nothing of the configuration changes, no byte does. -/
theorem sameBytes_of_mem_eq {s t : State} (hmem : t.mem = s.mem) (hcart : t.cart = s.cart)
    (hparams : t.params = s.params) : SameBytes s t := by
  simp [SameBytes, hmem, hcart, hparams]

end Sys2Proof.Machine

namespace Sys2Proof.Spec

open Sys2Proof.Machine

/-- Settles O11: the arrays stay by the shape of the form, the configuration is in the fixed part. -/
theorem otherFormsChangeNoByte : Obligations.OtherFormsChangeNoByte := by
  intro i s t hi h
  have hfixed := exec_fixedPart h
  exact sameBytes_of_mem_eq (exec_mem hi h) (congrArg FixedPart.cart hfixed) (congrArg FixedPart.params hfixed)

end Sys2Proof.Spec
end

section
/-! SUPPORT. OAM DMA (O44) and the stores that start one (O12): the copy of a page byte by byte, from a page that can be read
without an effect and from the port window, and the shapes of the storing instructions at 0x4014 (49_dma_clock.md R410 to R413;
92_eei_decisions.md D20, D41). -/

namespace Sys2Proof.Machine

open Sys2Proof.Spec

/-! ### Reads of a page -/

section
variable {a : Word} {s : State}

/-- In the RAM window, in the array behind the hole and in the PRG window a read gives the byte there and has no effect. -/
theorem memRead_stored (h : InRam a ∨ (InHole a ∧ s.params.holePolicy = .ram) ∨ InPrg a) :
    memRead a s = .next (storedByte a s, s) := by
  obtain h | ⟨h, hpolicy⟩ | h := h
  · exact memRead_storedByte (.inl h) s
  · have hram : ¬a.toNat ≤ 0x1FFF := by unfold InHole at h; omega
    have hhole : a.toNat ≤ 0x7FFF := by unfold InHole at h; omega
    rw [memRead_inHole h, holeRead_ram hpolicy, storedByte, if_neg hram, if_pos hhole]
    rfl
  · exact memRead_storedByte (.inr h) s

/-- A port read leaves the OAM address (R304). -/
theorem portRead_oamaddr {p : BitVec 3} {r : Byte × State} (h : portRead p s = .next r) :
    r.2.ppu.oamaddr = s.ppu.oamaddr := by
  unfold portRead at h
  split_ifs at h
  · cases h
    rfl
  · cases h
    unfold readOamData
    split_ifs <;> rfl
  · unfold readData at h
    dsimp only at h
    split_ifs at h <;> cases h <;> rfl
  · cases h
    rfl

/-- A bus read leaves the OAM address. -/
theorem memRead_oamaddr {r : Byte × State} (h : memRead a s = .next r) : r.2.ppu.oamaddr = s.ppu.oamaddr := by
  by_cases hports : InPorts a
  · rw [memRead_inPorts hports] at h
    exact portRead_oamaddr h
  · by_cases hdma : a = 0x4014
    · subst hdma
      cases h
      rfl
    · rw [memRead_pure h hports hdma]

end

/-! ### The copy -/

/-- The address of byte `i` of a page. -/
def pageAddress (p : Byte) (i : Nat) : Word := BitVec.ofNat 16 (p.toNat * 256 + i)

theorem toNat_pageAddress (p : Byte) {i : Nat} (hi : i < 256) : (pageAddress p i).toNat = p.toNat * 256 + i := by
  have := p.isLt
  rw [pageAddress, BitVec.toNat_ofNat]
  omega

/-- The first of the last `n + 1` bytes of the copy, and the rest (R410). -/
theorem oamDmaCopy_succ (p : Byte) (n : Nat) (hn : n < 256) (s : State) :
    oamDmaCopy p (n + 1) s = andThen (memRead (pageAddress p (255 - n)) s) fun r =>
      oamDmaCopy p n (r.2.setMem (r.2.mem.putOam ((r.2.ppu.oamaddr.toNat + (255 - n)) % 256) r.1)) := by
  have hi : (BitVec.ofNat 8 (256 - (n + 1))).toNat = 255 - n := by
    rw [BitVec.toNat_ofNat]
    omega
  rw [oamDmaCopy, joinBytes_eq_ofNat, hi, pageAddress]
  simp only [BitVec.toNat_add, hi]

/-- The copy of a page that is read without an effect: its bytes go to `oam` from `oamaddr` on and round, and nothing else
changes (R410). The reads do not see what has been written. -/
theorem oamDmaCopy_stored {p : Byte} {n : Nat} (hn : n ≤ 256) {s : State}
    (h : ∀ i, i < 256 → InRam (pageAddress p i) ∨ (InHole (pageAddress p i) ∧ s.params.holePolicy = .ram) ∨
      InPrg (pageAddress p i)) :
    ∃ t, oamDmaCopy p n s = .next t ∧ t = { s with mem := { s.mem with oam := t.mem.oam } } ∧
      ∀ i, i < 256 → t.mem.oamByte ((s.ppu.oamaddr.toNat + i) % 256) =
        if 256 - n ≤ i then storedByte (pageAddress p i) s else s.mem.oamByte ((s.ppu.oamaddr.toNat + i) % 256) := by
  induction n generalizing s with
  | zero => exact ⟨s, rfl, rfl, fun i hi => (if_neg (by omega)).symm⟩
  | succ n ih =>
    have hfirst := memRead_stored (h (255 - n) (by omega))
    rw [oamDmaCopy_succ p n hn, hfirst, andThen_next]
    obtain ⟨t, ht, hframe, hbytes⟩ := ih (Nat.le_of_lt hn) (s := s.setMem (s.mem.putOam
      ((s.ppu.oamaddr.toNat + (255 - n)) % 256) (storedByte (pageAddress p (255 - n)) s))) h
    refine ⟨t, ht, hframe, fun i hi => (hbytes i hi).trans ?_⟩
    have hplace : (s.ppu.oamaddr.toNat + i) % 256 = (s.ppu.oamaddr.toNat + (255 - n)) % 256 ↔ i = 255 - n := by omega
    rw [State.setMem_mem, State.setMem_ppu, Memory.oamByte_putOam]
    simp only [hplace]
    rcases Nat.lt_trichotomy i (255 - n) with hlt | rfl | hgt
    · rw [if_neg (by omega), if_neg (by omega), if_neg (by omega)]
    · rw [if_neg (by omega), if_pos rfl, if_pos (by omega)]
    · rw [if_pos (by omega), if_pos (by omega)]
      rfl

/-- The copy of a page every byte of which can be read completes and leaves the OAM address. -/
theorem exists_oamDmaCopy {p : Byte} {n : Nat} (hn : n ≤ 256) {s : State}
    (h : ∀ i, i < 256 → Readable (pageAddress p i) s) :
    ∃ t, oamDmaCopy p n s = .next t ∧ t.ppu.oamaddr = s.ppu.oamaddr := by
  induction n generalizing s with
  | zero => exact ⟨s, rfl, rfl⟩
  | succ n ih =>
    obtain ⟨r, hr⟩ := exists_memRead (h (255 - n) (by omega))
    rw [oamDmaCopy_succ p n hn, hr, andThen_next]
    obtain ⟨t, ht, hoamaddr⟩ := ih (Nat.le_of_lt hn)
      (s := r.2.setMem (r.2.mem.putOam ((r.2.ppu.oamaddr.toNat + (255 - n)) % 256) r.1))
      fun i hi => (readable_memRead_iff hr).mpr (h i hi)
    exact ⟨t, ht, hoamaddr.trans (memRead_oamaddr hr)⟩

theorem oamDma_rendering {s : State} (h : Rendering s) (p : Byte) : oamDma p s = .refused .dmaWhileRendering :=
  if_pos ((isRendering_iff s).mpr h)

theorem oamDma_idle {s : State} (h : ¬Rendering s) (p : Byte) : oamDma p s = oamDmaCopy p 256 s :=
  if_neg (mt (isRendering_iff s).mp h)

/-! ### The stores to 0x4014 -/

section
variable {i : Operand → Instr} {mn : Mnemonic} {o : Operand} {s : State} {e : Effective}

/-- Two sequences that go on alike from what their common first half answers are one. -/
theorem andThen_congr {α β : Type} {x : Result α} {f g : α → Result β} (h : ∀ a, x = .next a → f a = g a) :
    andThen x f = andThen x g := by
  cases x with
  | next a => exact h a rfl
  | fault r => rfl
  | refused r => rfl

/-- At a mode of the mnemonic a shape runs with the cycles of the opcode byte it is encoded with (R150). -/
theorem withEntry_encodedCycles (hparts : (i o).parts = some (mn, o)) (hwf : (i o).wellFormed = true) (s : State)
    (run : Nat → Result State) : withEntry mn o.mode s run = run (encodedCycles s.params (i o)) := by
  obtain ⟨entry, hentry⟩ := Mnemonic.mem_modes.mp ((Instr.wellFormed_of_parts hparts).mp hwf)
  rw [withEntry_some hentry, encodedCycles, encode_of_parts hparts hentry]
  rfl

/-- The end of an instruction whose accesses from `s` to `u` wrote 0x4014: the stall of the transfer, from the parameters
and the cycle counter of `s` (R411). -/
theorem advance_dma {u v : State} (h : BusFrame s u) (hv : v.cpu.pc = u.cpu.pc) (len n : Nat) :
    advance len (n + dmaExtra 0x4014 n u) v =
      .next (retired (plus s.cpu.pc len) (n + s.params.dmaBaseCycles + (s.cpu.cyc + n) % 2) v) := by
  have hextra : dmaExtra 0x4014 n u = u.params.dmaBaseCycles + (u.cpu.cyc + n) % 2 := if_pos rfl
  rw [advance_eq, hextra, hv, h.params, h.cpu, Nat.add_assoc]

/-- A store to 0x4014 by an instruction of the storing shape. -/
theorem storingDma_of_storing {value : Cpu → Byte} (hparts : ∀ o, (i o).parts = some (mn, o))
    (hexec : ∀ o s, exec (i o) s = storing mn o (value s.cpu) s) : StoringDma i value := by
  intro s o e hwf he hea n
  rw [hexec, storing, withEntry_encodedCycles (hparts o) hwf, he, andThen_next, hea, memWrite_dmaPort]
  exact andThen_congr fun t ht => advance_dma (memWrite_frame (a := 0x4014) ht) rfl _ _

/-- A store to 0x4014 by a read-modify-write, whose work `f` is on the flags and may use those it began with. -/
theorem modifyingDma_of_modifying {result : Byte → Flags → Byte} {flags : Byte → Flags → Flags}
    {f : Flags → Byte → State → State} (hparts : ∀ o, (i o).parts = some (mn, o))
    (hexec : ∀ o s, o ≠ .acc → exec (i o) s = modifying mn o (fun m => result m s.cpu.p) (f s.cpu.p) s)
    (hf : ∀ m u, f u.cpu.p m u = { u with cpu := { u.cpu with p := flags m u.cpu.p } }) :
    ModifyingDma i result flags := by
  intro s o e hwf he hea n
  have ho : o ≠ .acc := by
    rintro rfl
    cases he
  refine ⟨(draw 8 s).1, (draw 8 s).2, memRead_dmaPort s, ?_⟩
  rw [hexec o s ho, modifying, withEntry_encodedCycles (hparts o) hwf, he, andThen_next, hea, memRead_dmaPort,
    andThen_next, memWrite_dmaPort]
  refine andThen_congr fun u hu => ?_
  have hframe : BusFrame s u := (draw_frame 8 s).trans (memWrite_frame (a := 0x4014) hu)
  have hp : s.cpu.p = u.cpu.p := by rw [hframe.cpu]
  rw [hp, hf]
  exact advance_dma hframe (by rfl) _ _

/-- A store to 0x4014 by a shift or rotate. -/
theorem modifyingDma_of_shifting {sh : Flags → Byte → ShiftResult} {result : Byte → Flags → Byte} {out : Byte → Bool}
    (hparts : ∀ o, (i o).parts = some (mn, o)) (hexec : ∀ o s, exec (i o) s = shifting mn o (sh s.cpu.p) s)
    (hsh : ∀ p m, sh p m = { r := result m p, c := out m }) :
    ModifyingDma i result fun m p => withZN (result m p) { p with c := out m } := by
  refine modifyingDma_of_modifying (f := fun p m u => u.setFlags (u.cpu.p.afterShift (sh p m))) hparts
    (fun o s ho => ?_) fun m u => ?_
  · simp only [hexec, shifting_mem ho, hsh]
  · rw [hsh, Flags.afterShift_eq]
    rfl

end

end Sys2Proof.Machine

namespace Sys2Proof.Spec

open Sys2Proof.Machine

/-- Settles O44: the copy of a page by what its bytes read as. -/
theorem oamDmaCopiesAPage : Obligations.OamDmaCopiesAPage := by
  intro p s
  refine ⟨fun hs => oamDma_rendering hs p, fun hs hpage => ?_, fun hs hlow hpage => ?_, fun hs hpolicy hlow hhigh => ?_⟩
  · have hstored : ∀ i, i < 256 → InRam (pageAddress p i) ∨
        (InHole (pageAddress p i) ∧ s.params.holePolicy = .ram) ∨ InPrg (pageAddress p i) := by
      intro i hi
      unfold InRam InHole InPrg
      rw [toNat_pageAddress p hi]
      by_cases hpolicy : s.params.holePolicy = .ram
      · simp only [hpolicy, and_true, true_and] at hpage ⊢
        omega
      · simp only [hpolicy, and_false, false_and, or_false, false_or] at hpage ⊢
        omega
    obtain ⟨t, ht, hframe, hbytes⟩ := oamDmaCopy_stored (Nat.le_refl 256) hstored
    exact ⟨t, (oamDma_idle hs p).trans ht, hframe, fun i hi => (hbytes i hi).trans (if_pos (Nat.zero_le i))⟩
  · have hreadable : ∀ i, i < 256 → Readable (pageAddress p i) s := by
      intro i hi
      refine ⟨fun ⟨hhole, hfault⟩ => ?_, fun ⟨_, hr⟩ => hs hr⟩
      unfold InHole at hhole
      rw [toNat_pageAddress p hi] at hhole
      rw [hfault] at hpage
      simp only [reduceCtorEq, false_and, or_false] at hpage
      omega
    obtain ⟨t, ht, hoamaddr⟩ := exists_oamDmaCopy (Nat.le_refl 256) hreadable
    exact ⟨t, (oamDma_idle hs p).trans ht, hoamaddr⟩
  · have hfirst : Unmapped (pageAddress p 0) s := by
      refine ⟨?_, hpolicy⟩
      unfold InHole
      rw [toNat_pageAddress p (by omega)]
      omega
    have hcopy := oamDmaCopy_succ p 255 (by omega) s
    simp only [Nat.reduceAdd, Nat.sub_self, memRead_unmapped hfirst, andThen_fault] at hcopy
    rw [oamDma_idle hs, hcopy, pageAddress, Nat.add_zero]

/-- Settles O12: each has the storing shape or that of a read-modify-write, with the results and flags of its rule (O9, O23,
O26). -/
theorem storesToTheDmaPort : Obligations.StoresToTheDmaPort := by
  unfold Obligations.StoresToTheDmaPort
  dsimp only
  refine ⟨⟨storingDma_of_storing (mn := .sta) (fun _ => rfl) fun _ _ => rfl,
    storingDma_of_storing (mn := .stx) (fun _ => rfl) fun _ _ => rfl,
    storingDma_of_storing (mn := .sty) (fun _ => rfl) fun _ _ => rfl⟩, ⟨?_, ?_⟩,
    modifyingDma_of_shifting (sh := fun _ => shiftLeft) (fun _ => rfl) (fun _ _ => rfl) fun _ => shiftLeft_eq,
    modifyingDma_of_shifting (sh := fun _ => shiftRight) (fun _ => rfl) (fun _ _ => rfl) fun _ => shiftRight_eq,
    modifyingDma_of_shifting (sh := fun p => rotateLeft p.c) (fun _ => rfl) (fun _ _ => rfl) fun p => rotateLeft_eq p.c,
    modifyingDma_of_shifting (sh := fun p => rotateRight p.c) (fun _ => rfl) (fun _ _ => rfl) fun p => rotateRight_eq p.c⟩
  · simp only [ofNat_toNat_add_one]
    exact modifyingDma_of_modifying (mn := .inc) (f := fun _ m u => u.setZN (m + 1)) (fun _ => rfl) (fun _ _ _ => rfl)
      fun m u => u.setZN_eq (m + 1)
  · simp only [ofNat_toNat_add_255]
    exact modifyingDma_of_modifying (mn := .dec) (f := fun _ m u => u.setZN (m - 1)) (fun _ => rfl) (fun _ _ _ => rfl)
      fun m u => u.setZN_eq (m - 1)

end Sys2Proof.Spec
end

section
/-! SUPPORT. The orchestrator (O45, O47, O48): what a tick does by its kind, what a fault leaves, and the cycles each shape reports
(49_dma_clock.md R401, R402, R404, R408; 60_exceptions.md R444; 92_eei_decisions.md D14, D17, D19, D20). -/

namespace Sys2Proof.Machine

open Sys2Proof.Spec

/-! ### The tick -/

section
variable {s : State}

theorem isCpuTick_iff : isCpuTick s = true ↔ s.master % s.params.ppuPerCpu = 0 := beq_iff_eq

/-- A running machine's step is the master tick (R401). -/
theorem step_running (h : s.halted = .running) : step s = runTick s := by
  rw [step, h]

/-- The end of a tick, in the terms of the statements. -/
theorem endTick_eq (s : State) : endTick s = { ppuDot s with master := s.master + 1 } := by
  rw [endTick, ppuDot_master]

/-- Away from the CPU ticks a tick is the dot alone (R401). -/
theorem step_dotTick (h : s.halted = .running) (ha : s.params.admitted = true)
    (hm : ¬s.master % s.params.ppuPerCpu = 0) : step s = .next (endTick s) := by
  rw [step_running h, runTick_admitted ha, if_neg (mt isCpuTick_iff.mp hm)]

/-- On a CPU tick the CPU cycle comes first (R401, D19). -/
theorem step_cpuTick (h : s.halted = .running) (ha : s.params.admitted = true)
    (hm : s.master % s.params.ppuPerCpu = 0) : step s = andThen (cpuCycle s) fun t => .next (endTick t) := by
  rw [step_running h, runTick_admitted ha, if_pos (isCpuTick_iff.mpr hm)]

theorem cpuCycle_stalled (h : 0 < s.cpu.stall) :
    cpuCycle s = .next ((s.setCyc (s.cpu.cyc + 1)).setStall (s.cpu.stall - 1)) := if_pos h

theorem cpuCycle_boundary (h : s.cpu.stall = 0) : cpuCycle s = cpuStep (s.setCyc (s.cpu.cyc + 1)) :=
  if_neg (by simp [h])

theorem not_admitted_of_ppuPerCpu {k : Params} (h : k.ppuPerCpu = 0) : k.admitted = false := by
  simp [Params.admitted, h]

end

/-! ### The cycles of an instruction -/

/-- The base cycles of the Instruction Table (R152). -/
theorem entry_cycles {mn : Mnemonic} {e : Entry} (h : e ∈ mn.entries) : 2 ≤ e.cycles ∧ e.cycles ≤ 7 := by
  have hall : ∀ mn ∈ Mnemonic.all, ∀ e ∈ mn.entries, 2 ≤ e.cycles ∧ e.cycles ≤ 7 := by decide
  exact hall mn mn.mem_all e h

/-- What a CPU step reports, with the spec's parameters: 2 to 7 cycles, or 513 or 514 more (R404, D17, D20). -/
def CyclesBounded (t : State) : Prop :=
  2 ≤ t.cpu.stall + 1 ∧ (t.cpu.stall + 1 ≤ 7 ∨ (517 ≤ t.cpu.stall + 1 ∧ t.cpu.stall + 1 ≤ 521))

section
variable {mn : Mnemonic} {mode : Mode} {o : Operand} {s t : State} {entry : Entry}

/-- An instruction that reports the base cycles of its entry and `extra` more. -/
theorem cyclesBounded_of_entry (hk : s.params.cyc = Params.spec.cyc) (he : tableEntry mn mode = some entry) {extra : Nat}
    (h : t.cpu.stall = s.params.cycles entry.opcode + extra - 1)
    (hextra : entry.cycles + extra ≤ 7 ∨ (517 ≤ entry.cycles + extra ∧ entry.cycles + extra ≤ 521)) :
    CyclesBounded t := by
  have hentry := (tableEntry_eq_some.mp he).1
  have hcycles : s.params.cycles entry.opcode = entry.cycles := by
    rw [← cycles_spec_of_mem hentry, Params.cycles, Params.cycles, hk]
  have hbounds := entry_cycles hentry
  unfold CyclesBounded
  omega

theorem implied_cycles {f : State → State} (hk : s.params.cyc = Params.spec.cyc) (h : implied mn f s = .next t) :
    CyclesBounded t := by
  obtain ⟨entry, he, rfl⟩ := implied_eq_next.mp h
  exact cyclesBounded_of_entry (extra := 0) hk he rfl (.inl (entry_cycles (tableEntry_eq_some.mp he).1).2)

theorem finish_cycles {pc : Word} {u : State} (hk : s.params.cyc = Params.spec.cyc)
    (he : tableEntry mn mode = some entry) (h : finish pc (s.params.cycles entry.opcode) u = .next t) :
    CyclesBounded t := by
  cases h
  exact cyclesBounded_of_entry (extra := 0) hk he rfl (.inl (entry_cycles (tableEntry_eq_some.mp he).1).2)

/-- A read: one more on a page cross, and no mode of such an instruction has more than 6 (R150). -/
theorem reading_cycles {f : Byte → State → State} (hmn : ∀ e ∈ mn.entries, e.cycles ≤ 6)
    (hk : s.params.cyc = Params.spec.cyc) (h : reading mn o f s = .next t) : CyclesBounded t := by
  obtain ⟨entry, m, he, hm, rfl⟩ := reading_eq_next.mp h
  refine cyclesBounded_of_entry (extra := m.px.toNat) hk he rfl (.inl ?_)
  have hsix := hmn entry (tableEntry_eq_some.mp he).1
  have hpx := m.px.toNat_le
  omega

/-- A branch: one more taken, two more into another page (R264). -/
theorem branching_cycles {cond : Bool} {offset : Byte} (hmn : ∀ e ∈ mn.entries, e.cycles ≤ 5)
    (hk : s.params.cyc = Params.spec.cyc) (h : branching mn cond offset s = .next t) : CyclesBounded t := by
  obtain ⟨entry, he, -⟩ := withEntry_eq_next.mp h
  have hfive := hmn entry (tableEntry_eq_some.mp he).1
  rw [branching_some he] at h
  cases h
  split_ifs
  · refine cyclesBounded_of_entry (extra := 1 + (pageCross (s.cpu.pc + 2) (branchTarget s.cpu.pc offset)).toNat) hk he
      (by rw [← Nat.add_assoc]; rfl) (.inl ?_)
    have hcross := (pageCross (s.cpu.pc + 2) (branchTarget s.cpu.pc offset)).toNat_le
    omega
  · exact cyclesBounded_of_entry (extra := 0) hk he rfl (.inl (by omega))

/-- The modes that do not reach the DMA port: their address lies in page zero, or they have none. -/
abbrev pageZeroModes : List Mode := [.zp, .zpx, .zpy, .acc]

theorem zext16_ne_dmaPort (b : Byte) : zext16 b ≠ dmaPort := fun h => absurd (h ▸ zext16_le b) (by decide)

theorem mode_of_dmaPort {r : Effective × State} (hr : effective o s = .next r) (hea : r.1.ea = dmaPort) :
    o.mode ∉ pageZeroModes := by
  cases o with
  | zp | zpx | zpy => cases hr; exact absurd hea (zext16_ne_dmaPort _)
  | acc => cases hr
  | _ => simp [Operand.mode]

/-- A write to memory: 513 or 514 more where it starts a DMA, at a mode that has 4 cycles at least (R411, D20). -/
theorem dmaExtra_cycles {r : Effective × State} {u : State}
    (hmn : ∀ e ∈ mn.entries, e.mode ∉ pageZeroModes → 4 ≤ e.cycles)
    (hk : s.params.cyc = Params.spec.cyc) (hbase : s.params.dmaBaseCycles = 513)
    (he : tableEntry mn o.mode = some entry) (hr : effective o s = .next r) (hu : BusFrame s u)
    (h : t.cpu.stall =
      s.params.cycles entry.opcode + dmaExtra r.1.ea (s.params.cycles entry.opcode) u - 1) : CyclesBounded t := by
  obtain ⟨hmem, hmode⟩ := tableEntry_eq_some.mp he
  have hseven := (entry_cycles hmem).2
  refine cyclesBounded_of_entry hk he h ?_
  by_cases hea : r.1.ea = dmaPort
  · have hfour := hmn entry hmem (hmode ▸ mode_of_dmaPort hr hea)
    rw [dmaExtra, if_pos hea, hu.params, hbase]
    omega
  · rw [dmaExtra, if_neg hea]
    exact .inl hseven

theorem storing_cycles {v : Byte} (hmn : ∀ e ∈ mn.entries, e.mode ∉ pageZeroModes → 4 ≤ e.cycles)
    (hk : s.params.cyc = Params.spec.cyc) (hbase : s.params.dmaBaseCycles = 513) (h : storing mn o v s = .next t) :
    CyclesBounded t := by
  obtain ⟨entry, r, u, he, hr, hu, rfl⟩ := storing_eq_next.mp h
  exact dmaExtra_cycles hmn hk hbase he hr ((effective_frame hr).1.trans (memWrite_frame hu)) rfl

theorem modifying_cycles {r : Byte → Byte} {f : Byte → State → State}
    (hmn : ∀ e ∈ mn.entries, e.mode ∉ pageZeroModes → 4 ≤ e.cycles)
    (hk : s.params.cyc = Params.spec.cyc) (hbase : s.params.dmaBaseCycles = 513)
    (h : modifying mn o r f s = .next t) : CyclesBounded t := by
  obtain ⟨entry, a, m, u, he, ha, hm, hu, rfl⟩ := modifying_eq_next.mp h
  exact dmaExtra_cycles hmn hk hbase he ha
    (((effective_frame ha).1.trans (memRead_frame hm)).trans (memWrite_frame hu)) rfl

theorem shifting_cycles {sh : Byte → ShiftResult} (hmn : ∀ e ∈ mn.entries, e.mode ∉ pageZeroModes → 4 ≤ e.cycles)
    (hk : s.params.cyc = Params.spec.cyc) (hbase : s.params.dmaBaseCycles = 513)
    (h : shifting mn o sh s = .next t) : CyclesBounded t := by
  by_cases ho : o = .acc
  · rw [ho, shifting_acc] at h
    obtain ⟨entry, he, h⟩ := withEntry_eq_next.mp h
    exact finish_cycles hk he h
  · rw [shifting_mem ho] at h
    exact modifying_cycles hmn hk hbase h

theorem enterInterrupt_stall {ret : Word} {status : Byte} {vector : Word} {n : Nat}
    (h : enterInterrupt ret status vector n s = .next t) : t.cpu.stall = n - 1 := by
  rw [enterInterrupt_eq] at h
  cases h
  rfl

/-- Each instruction has one of the shapes, with entries in the bounds that the shape's extra cycles leave. -/
theorem exec_cycles {i : Instr} (hk : s.params.cyc = Params.spec.cyc) (hbase : s.params.dmaBaseCycles = 513)
    (h : exec i s = .next t) : CyclesBounded t := by
  cases i with
  | lda | ldx | ldy | cmp | cpx | cpy | and | ora | eor | bit =>
    simp only [exec, execLda, execLdx, execLdy, execCmp, execCpx, execCpy, execAnd, execOra, execEor, execBit] at h
    exact reading_cycles (by decide) hk h
  | adc | sbc =>
    simp only [exec, execAdc, execSbc] at h
    exact reading_cycles (by decide) hk (binary_eq_next.mp h).2
  | sta | stx | sty =>
    simp only [exec, execSta, execStx, execSty] at h
    exact storing_cycles (by decide) hk hbase h
  | inc | dec =>
    simp only [exec, execInc, execDec] at h
    exact modifying_cycles (by decide) hk hbase h
  | asl | lsr | rol | ror =>
    simp only [exec, execAsl, execLsr, execRol, execRor] at h
    exact shifting_cycles (by decide) hk hbase h
  | tax | tay | txa | tya | tsx | txs | pha | php | pla | plp | inx | iny | dex | dey
  | clc | sec | cli | sei | cld | sed | clv | nop =>
    simp only [exec, execTax, execTay, execTxa, execTya, execTsx, execTxs, execPha, execPhp, execPla, execPlp,
      execInx, execIny, execDex, execDey, execClc, execSec, execCli, execSei, execCld, execSed, execClv, execNop] at h
    exact implied_cycles hk h
  | bcc | bcs | beq | bne | bmi | bpl | bvc | bvs =>
    simp only [exec, execBcc, execBcs, execBeq, execBne, execBmi, execBpl, execBvc, execBvs] at h
    exact branching_cycles (by decide) hk h
  | jmp =>
    simp only [exec, execJmp] at h
    obtain ⟨entry, he, h⟩ := withEntry_eq_next.mp h
    obtain ⟨a, -, h⟩ := andThen_eq_next.mp h
    exact finish_cycles hk he h
  | jsr | rts | brk | rti =>
    simp only [exec, execJsr, execRts, execBrk, execRti, enterInterrupt, returnFromInterrupt] at h
    obtain ⟨entry, he, h⟩ := withEntry_eq_next.mp h
    exact finish_cycles hk he h
  | undefinedOpcode => cases h

end

end Sys2Proof.Machine

namespace Sys2Proof.Spec

open Sys2Proof.Machine

/-- Settles O45: the tick by its kind. -/
theorem masterTickOrder : Obligations.MasterTickOrder := by
  intro s hrunning cpuTick counted dot
  have hdot : ∀ t : State, (.next (endTick t) : Result State) = dot t := fun t => congrArg _ (endTick_eq t)
  refine ⟨fun ha => ⟨fun hm => ?_, fun hm hstall => ?_, fun hm hstall => ?_⟩, fun ha => ?_,
    not_admitted_of_ppuPerCpu, rfl⟩
  · rw [step_dotTick hrunning ha hm, hdot]
  · rw [step_cpuTick hrunning ha hm, cpuCycle_stalled hstall, andThen_next, hdot]
    rfl
  · simp only [step_cpuTick hrunning ha hm, cpuCycle_boundary hstall, hdot]
    rfl
  · simp [step_running hrunning, runTick, ha]

/-- Settles O47: a running machine's tick is its step, and a halted machine does not move. -/
theorem faultsHaltTheMachine : Obligations.FaultsHaltTheMachine := by
  intro s f
  refine ⟨fun hrunning h => ?_, fun hhalted => ⟨step_halted hhalted, ?_⟩⟩
  · rw [step_running hrunning] at h
    simp only [masterTick, hrunning, h]
    rfl
  · rw [masterTick, hhalted]

/-- Settles O48: an instruction by its shape; an interrupt entry reports its parameter. -/
theorem cycleCountsAreBounded : Obligations.CycleCountsAreBounded := by
  refine ⟨fun i s t hk hbase h => exec_cycles hk hbase h, fun s t hcycles h => ?_⟩
  have hstall : t.cpu.stall = s.params.intCycles - 1 := by
    obtain h | h := h
    · rw [nmiEntry] at h
      exact enterInterrupt_stall h
    · rw [irqEntry] at h
      exact enterInterrupt_stall h
  rw [hstall, hcycles]

end Sys2Proof.Spec
end

section
/-! SUPPORT. The parts of the PPU that a dot works on, each written by one part of the dot (O50, O51, O52): the vblank edges, the
background fetcher, the sprite phases, the output, the counters (48_ppu_rendering.md R340 to R345). -/

namespace Sys2Proof.Machine

open Sys2Proof.Spec

/-! ### The vblank edges -/

section
variable {s : State}

theorem vblankStart_at (h : s.params.vblSet = (s.ppu.scanline, s.ppu.dot)) :
    vblankStart s = updateNmi (s.setPpu { s.ppu with vblank := true }) := if_pos h.symm

theorem vblankStart_off (h : ¬s.params.vblSet = (s.ppu.scanline, s.ppu.dot)) : vblankStart s = s :=
  if_neg (mt Eq.symm h)

theorem vblankEnd_at (h : s.params.vblClear = (s.ppu.scanline, s.ppu.dot)) :
    vblankEnd s = updateNmi (s.setPpu { s.ppu with vblank := false, s0hit := false, overflow := false }) := if_pos h.symm

theorem vblankEnd_off (h : ¬s.params.vblClear = (s.ppu.scanline, s.ppu.dot)) : vblankEnd s = s :=
  if_neg (mt Eq.symm h)

/-- The end of vblank lowers the line, so it requests nothing (R303, R344). -/
theorem vblankEnd_pending (s : State) : (vblankEnd s).cpu.nmiPending = s.cpu.nmiPending := by
  unfold vblankEnd
  split_ifs
  · simp [updateNmi]
  · rfl

/-- The start of vblank leaves what decides about its end. -/
theorem vblankStart_clears :
    (vblankStart s).params.vblClear = ((vblankStart s).ppu.scanline, (vblankStart s).ppu.dot) ↔
      s.params.vblClear = (s.ppu.scanline, s.ppu.dot) := by
  rw [vblankStart_eq]

theorem afterEdge_at (h : s.params.vblClear = (s.ppu.scanline, s.ppu.dot)) (flag : Bool) :
    afterEdge s flag = false := by
  simp [afterEdge, h]

theorem afterEdge_off (h : ¬s.params.vblClear = (s.ppu.scanline, s.ppu.dot)) (flag : Bool) :
    afterEdge s flag = flag := by
  simp [afterEdge, h]

/-- The sprite flags after the edges: cleared at `VBL_CLEAR` (R344). -/
theorem vblankEdges_flags (s : State) :
    (vblankEdges s).ppu.s0hit = afterEdge s s.ppu.s0hit ∧ (vblankEdges s).ppu.overflow = afterEdge s s.ppu.overflow := by
  by_cases h : s.params.vblClear = (s.ppu.scanline, s.ppu.dot)
  · rw [vblankEdges, vblankEnd_at (vblankStart_clears.mpr h), afterEdge_at h, afterEdge_at h]
    exact ⟨rfl, rfl⟩
  · rw [vblankEdges, vblankEnd_off (mt vblankStart_clears.mp h), vblankStart_eq, afterEdge_off h, afterEdge_off h]
    exact ⟨rfl, rfl⟩

end

/-! ### What each part of a dot writes -/

/-- What the background fetcher and the scroll updates write (R345, R347 to R355). -/
structure Background where
  v : Scroll
  ntByte : Byte
  atBits : BitVec 2
  ptLo : Byte
  ptHi : Byte
  bgLo : BitVec 16
  bgHi : BitVec 16
  atLo : BitVec 16
  atHi : BitVec 16

/-- The background part of a PPU. -/
def Ppu.background (p : Ppu) : Background :=
  { v := p.v, ntByte := p.ntByte, atBits := p.atBits, ptLo := p.ptLo, ptHi := p.ptHi, bgLo := p.bgLo, bgHi := p.bgHi,
    atLo := p.atLo, atHi := p.atHi }

/-- The PPU with another background part. -/
def Ppu.withBackground (b : Background) (p : Ppu) : Ppu :=
  { p with
    v := b.v, ntByte := b.ntByte, atBits := b.atBits, ptLo := b.ptLo, ptHi := b.ptHi, bgLo := b.bgLo, bgHi := b.bgHi
    atLo := b.atLo, atHi := b.atHi }

/-- What writes the background part only, after what writes the background part only. -/
theorem withBackground_trans {p q r : Ppu} (h : q = p.withBackground q.background)
    (h' : r = q.withBackground r.background) : r = p.withBackground r.background :=
  calc r = q.withBackground r.background := h'
    _ = (p.withBackground q.background).withBackground r.background := congrArg (Ppu.withBackground _) h
    _ = p.withBackground r.background := rfl

/-- What the three sprite phases write (R360 to R367). -/
structure SpritePart where
  sec : Vector Sprite 8
  secCount : Nat
  secHas0 : Bool
  overflow : Bool
  line : Vector LineSprite 8
  lineCount : Nat
  lineHas0 : Bool

/-- The sprite part of a PPU. -/
def Ppu.spritePart (p : Ppu) : SpritePart :=
  { sec := p.sec, secCount := p.secCount, secHas0 := p.secHas0, overflow := p.overflow, line := p.line,
    lineCount := p.lineCount, lineHas0 := p.lineHas0 }

/-- The PPU with another sprite part. -/
def Ppu.withSpritePart (b : SpritePart) (p : Ppu) : Ppu :=
  { p with
    sec := b.sec, secCount := b.secCount, secHas0 := b.secHas0, overflow := b.overflow, line := b.line
    lineCount := b.lineCount, lineHas0 := b.lineHas0 }

/-- What writes the sprite part only, after what writes the sprite part only. -/
theorem withSpritePart_trans {p q r : Ppu} (h : q = p.withSpritePart q.spritePart)
    (h' : r = q.withSpritePart r.spritePart) : r = p.withSpritePart r.spritePart :=
  calc r = q.withSpritePart r.spritePart := h'
    _ = (p.withSpritePart q.spritePart).withSpritePart r.spritePart := congrArg (Ppu.withSpritePart _) h
    _ = p.withSpritePart r.spritePart := rfl

/-- What the vblank edges write (R343, R344). -/
structure Status where
  vblank : Bool
  s0hit : Bool
  overflow : Bool
  nmiLine : Bool

/-- The PPU with other status flags. -/
def Ppu.withStatus (b : Status) (p : Ppu) : Ppu :=
  { p with vblank := b.vblank, s0hit := b.s0hit, overflow := b.overflow, nmiLine := b.nmiLine }

/-- The status flags after the vblank edges. -/
def statusAfterEdges (s : State) : Status :=
  { vblank := (vblankEdges s).ppu.vblank, s0hit := afterEdge s s.ppu.s0hit, overflow := afterEdge s s.ppu.overflow,
    nmiLine := (vblankEdges s).ppu.nmiLine }

theorem vblankEdges_ppu (s : State) : (vblankEdges s).ppu = s.ppu.withStatus (statusAfterEdges s) := by
  obtain ⟨hs0hit, hoverflow⟩ := vblankEdges_flags s
  rw [Ppu.withStatus, statusAfterEdges, ← hs0hit, ← hoverflow]
  exact congrArg State.ppu (vblankEdges_eq s)

/-! ### The background fetcher -/

section
variable (k : Params) (c : Cartridge) (m : Memory) (sl d : Nat) (p : Ppu) (b : Status)

theorem bgShift_eq : bgShift d p = p.withBackground (bgShift d p).background := by
  unfold bgShift
  split_ifs <;> rfl

theorem bgFetch_eq : bgFetch c m d p = p.withBackground (bgFetch c m d p).background := by
  unfold bgFetch
  split_ifs
  · split <;> rfl
  · rfl

theorem bgScroll_eq : bgScroll k sl d p = p.withBackground (bgScroll k sl d p).background := by
  unfold bgScroll
  split_ifs <;> rfl

/-- The background fetcher writes the background part only. -/
theorem bgDot_eq : bgDot k c m sl d p = p.withBackground (bgDot k c m sl d p).background := by
  have hfetch := withBackground_trans (bgShift_eq d p) (bgFetch_eq c m d (bgShift d p))
  exact withBackground_trans hfetch (bgScroll_eq k sl d _)

theorem bgShift_withStatus : bgShift d (p.withStatus b) = (bgShift d p).withStatus b := by
  unfold bgShift
  split_ifs <;> rfl

theorem bgFetch_withStatus : bgFetch c m d (p.withStatus b) = (bgFetch c m d p).withStatus b := by
  unfold bgFetch
  split_ifs
  · split <;> rfl
  · rfl

theorem bgScroll_withStatus : bgScroll k sl d (p.withStatus b) = (bgScroll k sl d p).withStatus b := by
  unfold bgScroll
  split_ifs <;> rfl

/-- The background fetcher does not see the status flags. -/
theorem bgDot_withStatus : bgDot k c m sl d (p.withStatus b) = (bgDot k c m sl d p).withStatus b := by
  rw [bgDot, bgShift_withStatus, bgFetch_withStatus, bgScroll_withStatus, bgDot]

/-! ### The sprite phases -/

theorem scanEntry_eq (n i : Nat) : scanEntry m n i p = p.withSpritePart (scanEntry m n i p).spritePart := by
  unfold scanEntry
  dsimp only
  split_ifs <;> rfl

theorem scanEntries_eq (n j : Nat) : scanEntries m n j p = p.withSpritePart (scanEntries m n j p).spritePart := by
  induction j generalizing p with
  | zero => rfl
  | succ j ih =>
    exact withSpritePart_trans (scanEntry_eq m p n _) (ih _)

/-- The sprite phases write the sprite part only. -/
theorem spriteDot_eq : spriteDot k c m sl d p = p.withSpritePart (spriteDot k c m sl d p).spritePart := by
  unfold spriteDot
  split_ifs
  · rfl
  · rfl
  · rfl
  · exact scanEntries_eq m p sl 64
  · rfl
  · rfl

/-! #### What the sprite phases see: `ctrl` and the sprite part -/

variable {p} {q : Ppu} (hctrl : p.ctrl = q.ctrl) (h : p.spritePart = q.spritePart)

include hctrl h

theorem scanEntry_congr (n i : Nat) : (scanEntry m n i p).spritePart = (scanEntry m n i q).spritePart := by
  obtain ⟨hsec, hcount, hhas0, hoverflow, hline, hlineCount, hlineHas0⟩ := SpritePart.mk.inj h
  simp only [scanEntry, Ppu.spriteHeight, hctrl, hcount]
  split_ifs <;> simp [Ppu.spritePart, hsec, hcount, hhas0, hoverflow, hline, hlineCount, hlineHas0]

theorem scanEntries_congr (n j : Nat) : (scanEntries m n j p).spritePart = (scanEntries m n j q).spritePart := by
  induction j generalizing p q with
  | zero => exact h
  | succ j ih =>
    refine ih ?_ (scanEntry_congr m hctrl h n _)
    rw [(scanEntry_frame m n _ p).ctrl, (scanEntry_frame m n _ q).ctrl, hctrl]

theorem loadLine_congr (n : Nat) : (loadLine c m n p).spritePart = (loadLine c m n q).spritePart := by
  obtain ⟨hsec, hcount, hhas0, hoverflow, hline, hlineCount, hlineHas0⟩ := SpritePart.mk.inj h
  simp [loadLine, Ppu.spritePart, Ppu.loadSprite, Ppu.spritePatternAddr, hctrl, hsec, hcount, hhas0, hoverflow, hline]

theorem spriteDot_congr : (spriteDot k c m sl d p).spritePart = (spriteDot k c m sl d q).spritePart := by
  obtain ⟨hsec, hcount, hhas0, hoverflow, hline, hlineCount, hlineHas0⟩ := SpritePart.mk.inj h
  unfold spriteDot
  split_ifs
  · simp [Ppu.spritePart, hsec, hcount, hhas0, hoverflow, hline]
  · exact h
  · simp [clearSecondary, Ppu.spritePart, hoverflow, hline, hlineCount, hlineHas0]
  · exact scanEntries_congr m hctrl h sl 64
  · exact loadLine_congr c m hctrl h sl
  · exact h

end

/-! ### The output and the counters -/

/-- The output writes the sprite-0 hit and the pixel only (R371, R372). -/
theorem outputDot_eq (m : Memory) (p : Ppu) :
    outputDot m p = { p with s0hit := (outputDot m p).s0hit, pixel := (outputDot m p).pixel } := by
  unfold outputDot
  split_ifs <;> rfl

/-! ### The dot -/

/-- The PPU between the rendering work of a dot and its output. -/
def rendered (s : State) : Ppu := renderDot s.params s.cart s.mem (s.ppu.withStatus (statusAfterEdges s))

theorem ppuDot_ppu_eq (s : State) : (ppuDot s).ppu = advanceDot s.params (outputDot s.mem (rendered s)) := by
  rw [ppuDot_ppu, vblankEdges_ppu, vblankEdges_eq s]
  rfl

/-- With the PPU rendering, the rendering work is the background fetcher's and then that of the sprite phases (R345). -/
theorem rendered_of_rendering {s : State} (h : Rendering s) :
    rendered s = spriteDot s.params s.cart s.mem s.ppu.scanline s.ppu.dot
      ((bgDot s.params s.cart s.mem s.ppu.scanline s.ppu.dot s.ppu).withStatus (statusAfterEdges s)) := by
  rw [← bgDot_withStatus]
  exact if_pos ((isRendering_iff s).mpr h)

/-- Otherwise there is none. -/
theorem rendered_of_idle {s : State} (h : ¬Rendering s) : rendered s = s.ppu.withStatus (statusAfterEdges s) :=
  if_neg (mt (isRendering_iff s).mp h)

section
variable (s : State)

/-- The rendering work leaves the registers that a program writes, and where it is in the frame. -/
theorem rendered_frame : RenderFrame (s.ppu.withStatus (statusAfterEdges s)) (rendered s) := renderDot_frame _ _ _ _

theorem ppuDot_background_rendered : (ppuDot s).ppu.background = (rendered s).background := by
  rw [ppuDot_ppu_eq, advanceDot_eq, outputDot_eq]
  rfl

theorem ppuDot_spritePart_rendered : (ppuDot s).ppu.spritePart = (rendered s).spritePart := by
  rw [ppuDot_ppu_eq, advanceDot_eq, outputDot_eq]
  rfl

theorem ppuDot_s0hit : (ppuDot s).ppu.s0hit = (outputDot s.mem (rendered s)).s0hit := by
  rw [ppuDot_ppu_eq, advanceDot_eq]

theorem ppuDot_pixel : (ppuDot s).ppu.pixel = (outputDot s.mem (rendered s)).pixel := by
  rw [ppuDot_ppu_eq, advanceDot_eq]

/-- The rendering work does not see the sprite-0 hit. -/
theorem rendered_s0hit : (rendered s).s0hit = afterEdge s s.ppu.s0hit := by
  by_cases h : Rendering s
  · rw [rendered_of_rendering h, spriteDot_eq]
    rfl
  · rw [rendered_of_idle h]
    rfl

end

/-- The background part after a dot: the fetcher's work where the PPU is rendering (R345). -/
theorem ppuDot_background {s : State} (h : Rendering s) :
    (ppuDot s).ppu.background = (bgDot s.params s.cart s.mem s.ppu.scanline s.ppu.dot s.ppu).background := by
  rw [ppuDot_background_rendered, rendered_of_rendering h, spriteDot_eq]
  rfl

theorem ppuDot_background_idle {s : State} (h : ¬Rendering s) : (ppuDot s).ppu.background = s.ppu.background := by
  rw [ppuDot_background_rendered, rendered_of_idle h]
  rfl

/-- The sprite part after a dot: the work of the phases where the PPU is rendering, from the overflow flag that the edges
leave (R345). -/
theorem ppuDot_spritePart {s : State} (h : Rendering s) :
    (ppuDot s).ppu.spritePart = (spriteDot s.params s.cart s.mem s.ppu.scanline s.ppu.dot
      { s.ppu with overflow := afterEdge s s.ppu.overflow }).spritePart := by
  rw [ppuDot_spritePart_rendered, rendered_of_rendering h, bgDot_eq]
  exact spriteDot_congr _ _ _ _ _ rfl rfl

theorem ppuDot_spritePart_idle {s : State} (h : ¬Rendering s) :
    (ppuDot s).ppu.spritePart = { s.ppu with overflow := afterEdge s s.ppu.overflow }.spritePart := by
  rw [ppuDot_spritePart_rendered, rendered_of_idle h]
  rfl

/-! ### The flags and the NMI line after a dot -/

section
variable {s : State}

theorem ppuDot_vblank (s : State) : (ppuDot s).ppu.vblank = (vblankEdges s).ppu.vblank := by
  rw [ppuDot_ppu_eq, advanceDot_eq, outputDot_eq]
  exact (rendered_frame s).vblank

theorem ppuDot_line (s : State) : (ppuDot s).ppu.nmiLine = (vblankEdges s).ppu.nmiLine := by
  rw [ppuDot_ppu_eq, advanceDot_eq, outputDot_eq]
  exact (rendered_frame s).nmiLine

/-- At `VBL_SET` alone vblank is set, and the line follows `ctrl[7]` (R343). -/
theorem vblankEdges_set (hset : s.params.vblSet = (s.ppu.scanline, s.ppu.dot))
    (hclear : ¬s.params.vblClear = (s.ppu.scanline, s.ppu.dot)) :
    (vblankEdges s).ppu.vblank = true ∧ (vblankEdges s).ppu.nmiLine = s.ppu.ctrl.getLsbD 7 := by
  rw [vblankEdges, vblankEnd_off (mt vblankStart_clears.mp hclear), vblankStart_at hset]
  simp [updateNmi]

/-- At `VBL_CLEAR` both are low, also where `VBL_SET` is the same dot (R344, R345). -/
theorem vblankEdges_clear (hclear : s.params.vblClear = (s.ppu.scanline, s.ppu.dot)) :
    (vblankEdges s).ppu.vblank = false ∧ (vblankEdges s).ppu.nmiLine = false := by
  rw [vblankEdges, vblankEnd_at (vblankStart_clears.mpr hclear)]
  simp [updateNmi]

theorem vblankEdges_off (hset : ¬s.params.vblSet = (s.ppu.scanline, s.ppu.dot))
    (hclear : ¬s.params.vblClear = (s.ppu.scanline, s.ppu.dot)) : vblankEdges s = s := by
  rw [vblankEdges, vblankStart_off hset, vblankEnd_off hclear]

/-- The rise of the line at `VBL_SET` requests an NMI (R303, R343). -/
theorem ppuDot_pending_set (hset : s.params.vblSet = (s.ppu.scanline, s.ppu.dot)) :
    (ppuDot s).cpu.nmiPending = (s.cpu.nmiPending || (s.ppu.ctrl.getLsbD 7 && !s.ppu.nmiLine)) := by
  have hedges : (ppuDot s).cpu.nmiPending = (vblankStart s).cpu.nmiPending := vblankEnd_pending _
  rw [hedges, vblankStart_at hset]
  simp [updateNmi, Bool.and_comm]

theorem ppuDot_pending_off (hset : ¬s.params.vblSet = (s.ppu.scanline, s.ppu.dot)) :
    (ppuDot s).cpu.nmiPending = s.cpu.nmiPending := by
  have hedges : (ppuDot s).cpu.nmiPending = (vblankStart s).cpu.nmiPending := vblankEnd_pending _
  rw [hedges, vblankStart_off hset]

end

/-! ### The overflow flag -/

section
variable (k : Params) (c : Cartridge) (m : Memory) {sl d : Nat} {p : Ppu}

theorem scanEntries_overflow (n j : Nat) (h : p.overflow = true) : (scanEntries m n j p).overflow = true := by
  induction j generalizing p with
  | zero => exact h
  | succ j ih =>
    refine ih ?_
    unfold scanEntry
    dsimp only
    split_ifs
    · exact h
    · rfl
    · exact h

/-- No sprite phase but the scan writes the overflow flag (R363). -/
theorem spriteDot_overflow_kept (h : ¬(sl ≠ k.preRenderLine ∧ d = 256)) :
    (spriteDot k c m sl d p).overflow = p.overflow := by
  unfold spriteDot
  split_ifs with hline h320 h64 h256
  · rfl
  · rfl
  · rfl
  · exact absurd ⟨hline, h256⟩ h
  · rfl
  · rfl

/-- No sprite phase clears it. -/
theorem spriteDot_overflow (h : p.overflow = true) : (spriteDot k c m sl d p).overflow = true := by
  by_cases hscan : sl ≠ k.preRenderLine ∧ d = 256
  · obtain ⟨hline, rfl⟩ := hscan
    have hdot : spriteDot k c m sl 256 p = scanEntries m sl 64 p := by simp [spriteDot, hline]
    rw [hdot]
    exact scanEntries_overflow m sl 64 h
  · rw [spriteDot_overflow_kept k c m hscan, h]

end

section
variable {s : State}

/-- Away from the scan of a visible line the overflow flag is as the edges leave it (R363, R344). -/
theorem ppuDot_overflow_kept (h : ¬(VisibleWork s ∧ s.ppu.dot = 256)) :
    (ppuDot s).ppu.overflow = afterEdge s s.ppu.overflow := by
  by_cases hr : Rendering s
  · have hscan : ¬(s.ppu.scanline ≠ s.params.preRenderLine ∧ s.ppu.dot = 256) :=
      fun ⟨hline, hdot⟩ => h ⟨⟨hr, hline⟩, hdot⟩
    exact (congrArg SpritePart.overflow (ppuDot_spritePart hr)).trans (spriteDot_overflow_kept _ _ _ hscan)
  · exact congrArg SpritePart.overflow (ppuDot_spritePart_idle hr)

theorem ppuDot_overflow (h : afterEdge s s.ppu.overflow = true) : (ppuDot s).ppu.overflow = true := by
  by_cases hr : Rendering s
  · exact (congrArg SpritePart.overflow (ppuDot_spritePart hr)).trans (spriteDot_overflow _ _ _ h)
  · exact (congrArg SpritePart.overflow (ppuDot_spritePart_idle hr)).trans h

/-- Below the picture no dot emits a pixel, so none sets the sprite-0 hit (R371, R372). -/
theorem ppuDot_s0hit_below (h : 239 < s.ppu.scanline) : (ppuDot s).ppu.s0hit = afterEdge s s.ppu.s0hit := by
  have hframe : (rendered s).scanline = s.ppu.scanline := (rendered_frame s).scanline
  rw [ppuDot_s0hit, outputDot, if_neg (by omega)]
  exact rendered_s0hit s

theorem ppuDot_s0hit_mono (h : afterEdge s s.ppu.s0hit = true) : (ppuDot s).ppu.s0hit = true := by
  have hrendered := (rendered_s0hit s).trans h
  rw [ppuDot_s0hit, outputDot, emitPixel]
  split_ifs <;> simp [hrendered]

end

end Sys2Proof.Machine

namespace Sys2Proof.Spec

open Sys2Proof.Machine

/-- Settles O50: what each part of the dot leaves. -/
theorem dotWritesOnlyThePpu : Obligations.DotWritesOnlyThePpu := by
  intro s t
  exact ⟨ppuDot_mem s, ppuDot_cart s, ppuDot_params s, ppuDot_halted s, ppuDot_master s, ppuDot_irqLine s,
    ppuDot_draws s, congrArg State.cpu (ppuDot_eq s), ppuDot_pending, ppuDot_registers s⟩

/-- Settles O51: the edges decide vblank, the line and the request; the sprite flags are set by the rendering work and the
output, and cleared by the edge alone. -/
theorem vblankEdges : Obligations.VblankEdges := by
  intro s t sets clears
  refine ⟨fun hset hclear => ?_, fun hclear => ?_, fun hset hclear => ?_, ppuDot_pending_set, ppuDot_pending_off,
    fun hclear hline => ⟨?_, ?_⟩, fun hclear => ⟨fun h => ?_, fun h => ?_⟩⟩
  · obtain ⟨hvblank, hnmi⟩ := vblankEdges_set hset hclear
    exact ⟨(ppuDot_vblank s).trans hvblank, (ppuDot_line s).trans hnmi⟩
  · obtain ⟨hvblank, hnmi⟩ := vblankEdges_clear hclear
    exact ⟨(ppuDot_vblank s).trans hvblank, (ppuDot_line s).trans hnmi⟩
  · have hedges := vblankEdges_off hset hclear
    exact ⟨(ppuDot_vblank s).trans (by rw [hedges]), (ppuDot_line s).trans (by rw [hedges])⟩
  · exact (ppuDot_s0hit_below hline).trans (afterEdge_at hclear _)
  · refine (ppuDot_overflow_kept fun ⟨⟨⟨_, hrender⟩, hpre⟩, _⟩ => ?_).trans (afterEdge_at hclear _)
    omega
  · exact ppuDot_s0hit_mono ((afterEdge_off hclear _).trans h)
  · exact ppuDot_overflow ((afterEdge_off hclear _).trans h)

end Sys2Proof.Spec
end

section
/-! SUPPORT. The length of a frame (O52): where the dots of a frame are, from the first one on, and how the last two of them end it
(48_ppu_rendering.md R341, R342; 92_eei_decisions.md D29, D36). -/

namespace Sys2Proof.Machine

open Sys2Proof.Spec

/-- What the counter advance writes (R342). -/
structure Position where
  scanline : Nat
  dot : Nat
  odd : Bool

/-- The position of a PPU in its frames. -/
def Ppu.position (p : Ppu) : Position := { scanline := p.scanline, dot := p.dot, odd := p.odd }

/-- The position after a dot at `x`, where `skip` says whether the last dot of this frame is left out (R342). -/
def Position.next (k : Params) (skip : Bool) (x : Position) : Position :=
  if x.scanline = k.preRenderLine ∧ x.dot + 2 = k.dotsPerLine ∧ skip = true then
    { scanline := 0, dot := 0, odd := false }
  else if x.dot + 1 = k.dotsPerLine then
    if x.scanline + 1 = k.linesPerFrame then { scanline := 0, dot := 0, odd := !x.odd }
    else { x with scanline := x.scanline + 1, dot := 0 }
  else { x with dot := x.dot + 1 }

/-- The last dot of the frame is left out: an odd frame, with rendering on where the parameter asks for it (R342, U16). -/
def Ppu.skipsDot (k : Params) (p : Ppu) : Bool :=
  p.odd && (!k.oddSkipRequiresRendering || p.mask.getLsbD 3 || p.mask.getLsbD 4)

theorem advanceDot_position (k : Params) (p : Ppu) :
    (advanceDot k p).position = p.position.next k (p.skipsDot k) := by
  have hskip : (p.odd = true ∧ (k.oddSkipRequiresRendering = false ∨ p.rendering = true)) ↔ p.skipsDot k = true := by
    simp [Ppu.skipsDot, Ppu.rendering, or_assoc]
  rw [advanceDot, Position.next]
  simp only [hskip]
  unfold Ppu.position
  dsimp only
  split_ifs <;> rfl

/-- A dot moves the position by the counter advance; its other work does not see it (R342). -/
theorem ppuDot_position (s : State) :
    (ppuDot s).ppu.position = s.ppu.position.next s.params (s.ppu.skipsDot s.params) := by
  have hframe := (rendered_frame s).trans (outputDot_frame s.mem (rendered s))
  rw [ppuDot_ppu_eq, advanceDot_position]
  simp only [Ppu.position, Ppu.skipsDot, hframe.scanline, hframe.dot, hframe.odd, hframe.mask]
  rfl

/-- Dots do not change the parameters, nor the registers the skip asks for. -/
theorem ppuDots_params (n : Nat) (s : State) : (ppuDots n s).params = s.params := by rw [ppuDots_eq]

theorem ppuDots_mask (n : Nat) (s : State) : (ppuDots n s).ppu.mask = s.ppu.mask := by
  induction n generalizing s with
  | zero => rfl
  | succ n ih =>
    obtain ⟨-, hmask, -⟩ := ppuDot_registers s
    rw [ppuDots, ih, hmask]

theorem ppuDots_succ (n : Nat) (s : State) : ppuDots (n + 1) s = ppuDot (ppuDots n s) := ppuDots_add n 1 s

/-- The position after one dot more, where the parity is still that of the start. -/
theorem ppuDots_succ_position {n l d : Nat} {s : State} (h : (ppuDots n s).ppu.position = ⟨l, d, s.ppu.odd⟩) :
    (ppuDots (n + 1) s).ppu.position = Position.next s.params (s.ppu.skipsDot s.params) ⟨l, d, s.ppu.odd⟩ := by
  have hodd : (ppuDots n s).ppu.odd = s.ppu.odd := congrArg Position.odd h
  have hskip : (ppuDots n s).ppu.skipsDot s.params = s.ppu.skipsDot s.params := by
    simp only [Ppu.skipsDot, hodd, ppuDots_mask]
  rw [ppuDots_succ, ppuDot_position, ppuDots_params, h, hskip]

section
variable {s : State} {n : Nat}

/-- Two dots before the end of the frame and earlier, the dots run line by line, row by row. -/
theorem ppuDots_position (hlast : s.params.preRenderLine + 1 = s.params.linesPerFrame) (hd : 2 ≤ s.params.dotsPerLine)
    (hstart : s.ppu.position = ⟨0, 0, s.ppu.odd⟩) (hn : n + 2 ≤ s.params.linesPerFrame * s.params.dotsPerLine) :
    (ppuDots n s).ppu.position = ⟨n / s.params.dotsPerLine, n % s.params.dotsPerLine, s.ppu.odd⟩ := by
  induction n with
  | zero => simpa [ppuDots] using hstart
  | succ n ih =>
    rw [ppuDots_succ_position (ih (by omega)), Position.next]
    have hpos := Nat.div_add_mod n s.params.dotsPerLine
    have hmod := Nat.mod_lt n (show 0 < s.params.dotsPerLine by omega)
    generalize s.params.dotsPerLine = D at *
    rw [← hlast, Nat.succ_mul] at hn
    rw [← hlast]
    have hskip : ¬(n / D = s.params.preRenderLine ∧ n % D + 2 = D ∧ s.ppu.skipsDot s.params = true) := by
      rintro ⟨hl, hr, -⟩
      rw [hl, Nat.mul_comm] at hpos
      omega
    rw [if_neg hskip]
    by_cases hr : n % D + 1 = D
    · have hl : ¬(n / D + 1 = s.params.preRenderLine + 1) := by
        intro hl
        rw [Nat.succ.inj hl, Nat.mul_comm] at hpos
        omega
      obtain ⟨hdiv, hrem⟩ := (Nat.div_mod_unique (a := n + 1) (d := n / D + 1) (c := 0) (show 0 < D by omega)).2
        ⟨by rw [Nat.mul_succ]; omega, by omega⟩
      rw [if_pos hr, if_neg hl, hdiv, hrem]
    · obtain ⟨hdiv, hrem⟩ := (Nat.div_mod_unique (a := n + 1) (d := n / D) (c := n % D + 1) (show 0 < D by omega)).2
        ⟨by omega, by omega⟩
      rw [if_neg hr, hdiv, hrem]

/-- The frame is one dot shorter where the last dot is left out. -/
theorem ppuDots_frame_position (hlast : s.params.preRenderLine + 1 = s.params.linesPerFrame)
    (hd : 2 ≤ s.params.dotsPerLine) (hstart : s.ppu.position = ⟨0, 0, s.ppu.odd⟩) :
    (ppuDots (if s.ppu.skipsDot s.params then s.params.linesPerFrame * s.params.dotsPerLine - 1
      else s.params.linesPerFrame * s.params.dotsPerLine) s).ppu.position = ⟨0, 0, !s.ppu.odd⟩ := by
  have hlength : s.params.linesPerFrame * s.params.dotsPerLine =
      s.params.dotsPerLine * s.params.preRenderLine + (s.params.dotsPerLine - 2) + 2 := by
    rw [← hlast, Nat.succ_mul, Nat.mul_comm]
    omega
  have hbefore := ppuDots_position hlast hd hstart (n := s.params.linesPerFrame * s.params.dotsPerLine - 2) (by omega)
  obtain ⟨hdiv, hrem⟩ := (Nat.div_mod_unique (a := s.params.linesPerFrame * s.params.dotsPerLine - 2)
    (d := s.params.preRenderLine) (c := s.params.dotsPerLine - 2) (show 0 < s.params.dotsPerLine by omega)).2
    ⟨by omega, by omega⟩
  rw [hdiv, hrem] at hbefore
  have hnext := ppuDots_succ_position hbefore
  cases hskip : s.ppu.skipsDot s.params with
  | true =>
    have hodd : s.ppu.odd = true := (Bool.and_eq_true_iff.mp hskip).1
    rw [if_pos rfl, show s.params.linesPerFrame * s.params.dotsPerLine - 1 =
      s.params.linesPerFrame * s.params.dotsPerLine - 2 + 1 by omega, hnext, Position.next,
      if_pos ⟨rfl, by dsimp only; omega, hskip⟩, hodd]
    rfl
  | false =>
    rw [hskip, Position.next, if_neg (by simp), if_neg (by dsimp only; omega)] at hnext
    have hlastDot := ppuDots_succ_position hnext
    rw [hskip, Position.next, if_neg (by simp), if_pos (by dsimp only; omega), if_pos hlast,
      show s.params.linesPerFrame * s.params.dotsPerLine - 2 + 1 + 1 =
      s.params.linesPerFrame * s.params.dotsPerLine by omega] at hlastDot
    rw [if_neg (by simp)]
    exact hlastDot

end

end Sys2Proof.Machine

namespace Sys2Proof.Spec

open Sys2Proof.Machine

/-- Settles O52: up to the last two dots of the frame the position is the quotient and the remainder of the number of
dots by the length of a line; then the counter advance leaves the last dot out or does not. -/
theorem frameLengths : Obligations.FrameLengths := by
  unfold Obligations.FrameLengths
  refine ⟨rfl, rfl, fun s hlast hd hline hdot => ?_⟩
  have hstart : s.ppu.position = ⟨0, 0, s.ppu.odd⟩ := by rw [Ppu.position, hline, hdot]
  have hend := ppuDots_frame_position hlast hd hstart
  exact ⟨congrArg Position.scanline hend, congrArg Position.dot hend, congrArg Position.odd hend⟩

end Sys2Proof.Spec
end

section
/-! SUPPORT. The scroll algebra on numbers, and the loopy `v` after a dot (O53) (48_ppu_rendering.md R351 to R354;
92_eei_decisions.md D32). -/

namespace Sys2Proof.Machine

open Sys2Proof.Spec

/-! ### A field of `v`, on numbers -/

/-- A field written into a scroll value, between the bits above and below it. -/
theorem toNat_putField {n : Nat} (v : Scroll) (lo : Nat) (f : BitVec n) (h : lo + n ≤ 15) :
    (putField v lo f).toNat = 2 ^ lo * (2 ^ n * (v.toNat / 2 ^ (lo + n)) + f.toNat) + v.toNat % 2 ^ lo := by
  apply Nat.eq_of_testBit_eq
  intro k
  rw [Nat.testBit_two_pow_mul_add _ (Nat.mod_lt _ (Nat.two_pow_pos lo)), Nat.testBit_two_pow_mul_add _ f.isLt,
    Nat.testBit_mod_two_pow, Nat.testBit_div_two_pow]
  by_cases hk : k < 15
  · have hbit := getLsbD_putField hk v lo f
    simp only [← BitVec.testBit_toNat] at hbit
    rw [hbit]
    by_cases hlo : k < lo
    · simp [hlo, Nat.not_le_of_lt hlo]
    · by_cases hhi : k < lo + n
      · simp [hlo, hhi, Nat.le_of_not_lt hlo, show k - lo < n by omega]
      · rw [if_neg (by omega), if_neg hlo, if_neg (by omega)]
        congr 1
        omega
  · rw [if_neg (by omega), if_neg (by omega), BitVec.testBit_toNat, BitVec.testBit_toNat,
      BitVec.getLsbD_of_ge _ _ (by omega), BitVec.getLsbD_of_ge _ _ (by omega)]

theorem coarseX_eq_iff (v : Scroll) : coarseX v = 31 ↔ v.toNat % 32 = 31 := by
  rw [← BitVec.toNat_inj]
  simp [coarseX]

theorem coarseY_eq_iff (v : Scroll) (y : BitVec 5) : coarseY v = y ↔ v.toNat / 32 % 32 = y.toNat := by
  rw [← BitVec.toNat_inj]
  simp [coarseY, Nat.shiftRight_eq_div_pow]

theorem fineY_eq_iff (v : Scroll) : fineY v = 7 ↔ v.toNat / 4096 = 7 := by
  have hv := v.isLt
  rw [← BitVec.toNat_inj]
  simp [fineY, Nat.shiftRight_eq_div_pow]
  omega

/-- Coarse X (R351): the wrap toggles the horizontal nametable bit. -/
theorem toNat_incCoarseX (v : Scroll) :
    (incCoarseX v).toNat =
      if v.toNat % 32 = 31 then
        v.toNat / 2048 * 2048 + (1 - v.toNat / 1024 % 2) * 1024 + v.toNat / 32 % 32 * 32
      else v.toNat + 1 := by
  unfold incCoarseX
  simp only [coarseX_eq_iff]
  split_ifs with hx
  · rw [toNat_putField _ _ _ (by decide), toNat_putField _ _ _ (by decide)]
    simp [Nat.shiftRight_eq_div_pow]
    omega
  · rw [toNat_putField _ _ _ (by decide)]
    simp [coarseX]
    omega

/-- Coarse Y (R352): 29 wraps and toggles the vertical nametable bit, 31 wraps. -/
theorem toNat_incCoarseY (v : Scroll) :
    (incCoarseY v).toNat =
      v.toNat / 4096 * 4096 + v.toNat / 1024 % 2 * 1024 + v.toNat % 32 +
      if v.toNat / 32 % 32 = 29 then (1 - v.toNat / 2048 % 2) * 2048
      else if v.toNat / 32 % 32 = 31 then v.toNat / 2048 % 2 * 2048
      else v.toNat / 2048 % 2 * 2048 + (v.toNat / 32 % 32 + 1) * 32 := by
  have hwrap : coarseY v = 29 ↔ v.toNat / 32 % 32 = 29 := coarseY_eq_iff v 29
  have hsilent : coarseY v = 31 ↔ v.toNat / 32 % 32 = 31 := coarseY_eq_iff v 31
  unfold incCoarseY
  simp only [hwrap, hsilent]
  split_ifs with h29 h31
  · rw [toNat_putField _ _ _ (by decide), toNat_putField _ _ _ (by decide)]
    simp [Nat.shiftRight_eq_div_pow]
    omega
  · rw [toNat_putField _ _ _ (by decide)]
    simp
    omega
  · rw [toNat_putField _ _ _ (by decide)]
    simp [coarseY, Nat.shiftRight_eq_div_pow]
    omega

theorem toNat_incY (v : Scroll) :
    (incY v).toNat =
      if v.toNat / 4096 < 7 then v.toNat + 4096
      else if v.toNat / 32 % 32 = 29 then
        (1 - v.toNat / 2048 % 2) * 2048 + (v.toNat / 1024 % 2 * 1024 + v.toNat % 32)
      else if v.toNat / 32 % 32 = 31 then v.toNat / 2048 % 2 * 2048 + (v.toNat / 1024 % 2 * 1024 + v.toNat % 32)
      else v.toNat / 2048 % 2 * 2048 + (v.toNat / 32 % 32 + 1) * 32 + (v.toNat / 1024 % 2 * 1024 + v.toNat % 32) := by
  have hv := v.isLt
  unfold incY
  by_cases hy : v.toNat / 4096 = 7
  · have hbase : (putField v 12 (0#3)).toNat = v.toNat % 4096 := by
      rw [toNat_putField _ _ _ (by decide)]
      simp
      omega
    rw [if_pos ((fineY_eq_iff v).2 hy), if_neg (by omega), toNat_incCoarseY, hbase]
    split_ifs <;> omega
  · rw [if_neg (mt (fineY_eq_iff v).1 hy), if_pos (by omega), toNat_putField _ _ _ (by decide)]
    simp [fineY, Nat.shiftRight_eq_div_pow]
    omega

/-! ### The copies of `t`, bit by bit -/

theorem getLsbD_copyHorizontal {k : Nat} (hk : k < 15) (t v : Scroll) :
    (copyHorizontal t v).getLsbD k = if k = 10 ∨ k ≤ 4 then t.getLsbD k else v.getLsbD k := by
  rw [copyHorizontal, getLsbD_putField hk, getLsbD_putField hk]
  simp only [BitVec.getLsbD_extractLsb']
  grind

theorem getLsbD_copyVertical {k : Nat} (hk : k < 15) (t v : Scroll) :
    (copyVertical t v).getLsbD k = if 11 ≤ k ∨ (5 ≤ k ∧ k ≤ 9) then t.getLsbD k else v.getLsbD k := by
  rw [copyVertical, getLsbD_putField hk, getLsbD_putField hk]
  simp only [BitVec.getLsbD_extractLsb']
  grind

/-! ### The scroll value after the layers of `BgDot` -/

section
variable (k : Params) (c : Cartridge) (m : Memory) (sl d : Nat) (p : Ppu)

@[simp] theorem bgShift_v : (bgShift d p).v = p.v := by
  unfold bgShift
  split_ifs <;> rfl

@[simp] theorem bgShift_t : (bgShift d p).t = p.t := by rw [bgShift_eq]; rfl

@[simp] theorem bgFetch_t : (bgFetch c m d p).t = p.t := by rw [bgFetch_eq]; rfl

/-- The fetcher moves `v` at the last dot of a group (R347). -/
theorem bgFetch_v : (bgFetch c m d p).v = if isFetchDot d ∧ (d - 1) % 8 = 7 then incCoarseX p.v else p.v := by
  unfold bgFetch
  split <;> rename_i hd
  · split <;> simp_all
  · simp [hd]

theorem bgScroll_v :
    (bgScroll k sl d p).v =
      if d = 256 then incY p.v
      else if d = 257 then copyHorizontal p.t p.v
      else if sl = k.preRenderLine ∧ 280 ≤ d ∧ d ≤ 304 then copyVertical p.t p.v
      else p.v := by
  unfold bgScroll
  split_ifs <;> rfl

/-- `v` after the background work of a dot, by the dots of D32. -/
theorem bgDot_v :
    (bgDot k c m sl d p).v =
      if d = 256 then incY (incCoarseX p.v)
      else if d = 257 then copyHorizontal p.t p.v
      else if sl = k.preRenderLine ∧ 280 ≤ d ∧ d ≤ 304 then copyVertical p.t p.v
      else if ((1 ≤ d ∧ d ≤ 256) ∨ (321 ≤ d ∧ d ≤ 336)) ∧ d % 8 = 0 then incCoarseX p.v
      else p.v := by
  have hgroup : (isFetchDot d = true ∧ (d - 1) % 8 = 7) ↔
      ((1 ≤ d ∧ d ≤ 256) ∨ (321 ≤ d ∧ d ≤ 336)) ∧ d % 8 = 0 := by
    simp only [isFetchDot, Bool.or_eq_true, decide_eq_true_eq]
    omega
  rw [bgDot, bgScroll_v, bgFetch_v, bgFetch_t, bgShift_v, bgShift_t]
  simp only [hgroup]
  by_cases h256 : d = 256
  · rw [if_pos h256, if_pos h256, if_pos (by omega)]
  rw [if_neg h256, if_neg h256]
  by_cases h257 : d = 257
  · rw [if_pos h257, if_pos h257, if_neg (by omega)]
  rw [if_neg h257, if_neg h257]
  by_cases hcopy : sl = k.preRenderLine ∧ 280 ≤ d ∧ d ≤ 304
  · rw [if_pos hcopy, if_pos hcopy, if_neg (by omega)]
  · rw [if_neg hcopy, if_neg hcopy]

end

end Sys2Proof.Machine

namespace Sys2Proof.Spec

open Sys2Proof.Machine

/-- Settles O53: the two steps of `v` are written fields, on numbers; the dots are the branches of `BgDot`. -/
theorem scrollMotion : Obligations.ScrollMotion := by
  unfold Obligations.ScrollMotion
  refine ⟨toNat_incCoarseX, toNat_incY, fun s => ?_⟩
  dsimp only
  constructor
  · intro h
    have hv : (ppuDot s).ppu.v = _ := (congrArg Background.v (ppuDot_background h)).trans (bgDot_v _ _ _ _ _ _)
    refine ⟨fun hgroup hphase hd => ?_, fun hd => ?_, fun hd k hk => ?_, fun hline hlo hhi k hk => ?_,
      fun hgroup hd hcopy => ?_⟩
    · rw [hv, if_neg hd, if_neg (by omega), if_neg (by omega), if_pos ⟨hgroup, hphase⟩]
    · rw [hv, if_pos hd]
    · rw [hv, if_neg (by omega), if_pos hd, getLsbD_copyHorizontal hk]
    · rw [hv, if_neg (by omega), if_neg (by omega), if_pos ⟨hline, hlo, hhi⟩, getLsbD_copyVertical hk]
    · rw [hv, if_neg (by omega), if_neg hd, if_neg hcopy, if_neg hgroup]
  · exact fun h => congrArg Background.v (ppuDot_background_idle h)

end Sys2Proof.Spec
end

section
/-! SUPPORT. The background fetcher: its addresses on numbers, and which latch and shifter a dot loads (O54)
(48_ppu_rendering.md R345, R347 to R350, R355). -/

namespace Sys2Proof.Machine

open Sys2Proof.Spec

/-! ### The addresses: fields of `v` next to each other -/

theorem nametableAddr_eq (v : Scroll) : nametableAddr v = 0b10#2 ++ v.extractLsb' 0 12 := by
  apply BitVec.eq_of_getLsbD_eq
  intro k hk
  simp only [nametableAddr, BitVec.getLsbD_append]
  interval_cases k <;> simp

theorem attributeAddr_eq (v : Scroll) :
    attributeAddr v =
      0b10#2 ++ v.extractLsb' 10 2 ++ 0b1111#4 ++ v.extractLsb' 7 3 ++ v.extractLsb' 2 3 := by
  apply BitVec.eq_of_getLsbD_eq
  intro k hk
  simp only [attributeAddr, BitVec.getLsbD_append]
  interval_cases k <;> simp

/-- The place of a quadrant in the byte it takes its palette from (R349). -/
theorem attributeShift_eq (v : Scroll) :
    ((v >>> 4) &&& 4) ||| (v &&& 2) = 0#12 ++ v.extractLsb' 6 1 ++ v.extractLsb' 1 1 ++ 0#1 := by
  apply BitVec.eq_of_getLsbD_eq
  intro k hk
  simp only [BitVec.getLsbD_append]
  interval_cases k <;> simp

theorem toNat_nametableAddr (v : Scroll) :
    (nametableAddr v).toNat = 0x2000 + v.toNat / 1024 % 4 * 1024 + v.toNat / 32 % 32 * 32 + v.toNat % 32 := by
  rw [nametableAddr_eq]
  simp only [toNat_append_eq_add, BitVec.extractLsb'_toNat, BitVec.toNat_ofNat, Nat.shiftRight_eq_div_pow]
  omega

theorem toNat_attributeAddr (v : Scroll) :
    (attributeAddr v).toNat =
      0x23C0 + v.toNat / 1024 % 4 * 1024 + v.toNat / 32 % 32 / 4 * 8 + v.toNat % 32 / 4 := by
  rw [attributeAddr_eq]
  simp only [toNat_append_eq_add, BitVec.extractLsb'_toNat, BitVec.toNat_ofNat, Nat.shiftRight_eq_div_pow]
  omega

theorem toNat_attributeBits (v : Scroll) (b : Byte) :
    (attributeBits v b).toNat =
      b.toNat / 2 ^ (v.toNat / 32 % 32 / 2 % 2 * 4 + v.toNat % 32 / 2 % 2 * 2) % 4 := by
  have hshift : (((v >>> 4) &&& 4) ||| (v &&& 2)).toNat =
      v.toNat / 32 % 32 / 2 % 2 * 4 + v.toNat % 32 / 2 % 2 * 2 := by
    have hrow : v.toNat / 32 % 32 / 2 % 2 = v.toNat / 64 % 2 := by omega
    have hcolumn : v.toNat % 32 / 2 % 2 = v.toNat / 2 % 2 := by omega
    rw [attributeShift_eq, hrow, hcolumn]
    simp only [toNat_append_eq_add, BitVec.extractLsb'_toNat, BitVec.toNat_ofNat, Nat.shiftRight_eq_div_pow]
    omega
  rw [attributeBits, hshift, BitVec.extractLsb'_toNat, BitVec.toNat_ushiftRight, Nat.shiftRight_zero,
    Nat.shiftRight_eq_div_pow]

theorem toNat_bgPatternAddr (p : Ppu) :
    p.bgPatternAddr.toNat = (p.ctrl.getLsbD 4).toNat * 4096 + p.ntByte.toNat * 16 + p.v.toNat / 4096 := by
  have hv := p.v.isLt
  simp only [Ppu.bgPatternAddr, fineY, bit, toNat_append_eq_add, BitVec.extractLsb'_toNat, BitVec.toNat_ofNat,
    BitVec.toNat_ofBool, Nat.shiftRight_eq_div_pow]
  omega

/-! ### The shifters -/

theorem toNat_loadLow (r : BitVec 16) (b : Byte) : (loadLow r b).toNat = r.toNat / 256 * 256 + b.toNat := by
  have hr := r.isLt
  simp only [loadLow, toNat_append_eq_add, BitVec.extractLsb'_toNat, Nat.shiftRight_eq_div_pow]
  omega

/-- One shifter of a dot (R355): it stays, or is shifted, and at the first dot of a group reloaded after that. -/
def shiftedBy (d : Nat) (r : BitVec 16) (load : Byte) : BitVec 16 :=
  if isShiftDot d then (if d % 8 = 1 then loadLow (r <<< 1) load else r <<< 1) else r

/-- What a palette bit fills a shifter with (R355). -/
def fill (b : Bool) : Byte := if b then 0xFF else 0x00

theorem toNat_shiftedBy_reload {d : Nat} (hshift : isShiftDot d = true) (hphase : d % 8 = 1) (r : BitVec 16)
    (load : Byte) : (shiftedBy d r load).toNat = r.toNat * 2 / 256 % 256 * 256 + load.toNat := by
  rw [shiftedBy, if_pos hshift, if_pos hphase, toNat_loadLow, BitVec.toNat_shiftLeft, Nat.shiftLeft_eq]
  omega

theorem toNat_shiftedBy_shift {d : Nat} (hshift : isShiftDot d = true) (hphase : d % 8 ≠ 1) (r : BitVec 16)
    (load : Byte) : (shiftedBy d r load).toNat = r.toNat * 2 % 65536 := by
  rw [shiftedBy, if_pos hshift, if_neg hphase, BitVec.toNat_shiftLeft, Nat.shiftLeft_eq]

theorem shiftedBy_off {d : Nat} (hshift : ¬isShiftDot d = true) (r : BitVec 16) (load : Byte) :
    shiftedBy d r load = r := if_neg hshift

section
variable (k : Params) (c : Cartridge) (m : Memory) (sl d : Nat) (p : Ppu)

/-- The shifters after the shift layer; it writes nothing else. -/
theorem bgShift_shifters :
    bgShift d p = { p with
      bgLo := shiftedBy d p.bgLo p.ptLo
      bgHi := shiftedBy d p.bgHi p.ptHi
      atLo := shiftedBy d p.atLo (fill (p.atBits.getLsbD 0))
      atHi := shiftedBy d p.atHi (fill (p.atBits.getLsbD 1)) } := by
  unfold bgShift shiftedBy
  split_ifs <;> rfl

/-- The latches after the fetch layer, by the phase of the dot (R347). -/
theorem bgFetch_latches :
    (bgFetch c m d p).ntByte =
      (if isFetchDot d ∧ (d - 1) % 8 = 0 then ppuRead c m (nametableAddr p.v) else p.ntByte) ∧
    (bgFetch c m d p).atBits =
      (if isFetchDot d ∧ (d - 1) % 8 = 2 then attributeBits p.v (ppuRead c m (attributeAddr p.v)) else p.atBits) ∧
    (bgFetch c m d p).ptLo = (if isFetchDot d ∧ (d - 1) % 8 = 4 then ppuRead c m p.bgPatternAddr else p.ptLo) ∧
    (bgFetch c m d p).ptHi =
      (if isFetchDot d ∧ (d - 1) % 8 = 6 then ppuRead c m (p.bgPatternAddr + 8) else p.ptHi) := by
  unfold bgFetch
  split <;> rename_i hd
  · split <;> simp_all
  · simp [hd]

/-- The fetch layer leaves the shifters. -/
theorem bgFetch_shifters :
    (bgFetch c m d p).bgLo = p.bgLo ∧ (bgFetch c m d p).bgHi = p.bgHi ∧
    (bgFetch c m d p).atLo = p.atLo ∧ (bgFetch c m d p).atHi = p.atHi := by
  unfold bgFetch
  split
  · split <;> exact ⟨rfl, rfl, rfl, rfl⟩
  · exact ⟨rfl, rfl, rfl, rfl⟩

/-- The scroll layer moves `v` only. -/
theorem bgScroll_only_v : bgScroll k sl d p = { p with v := (bgScroll k sl d p).v } := by
  unfold bgScroll
  split_ifs <;> rfl

/-- The latches after the background work of a dot. -/
theorem bgDot_latches :
    (bgDot k c m sl d p).ntByte =
      (if isFetchDot d ∧ (d - 1) % 8 = 0 then ppuRead c m (nametableAddr p.v) else p.ntByte) ∧
    (bgDot k c m sl d p).atBits =
      (if isFetchDot d ∧ (d - 1) % 8 = 2 then attributeBits p.v (ppuRead c m (attributeAddr p.v)) else p.atBits) ∧
    (bgDot k c m sl d p).ptLo = (if isFetchDot d ∧ (d - 1) % 8 = 4 then ppuRead c m p.bgPatternAddr else p.ptLo) ∧
    (bgDot k c m sl d p).ptHi =
      (if isFetchDot d ∧ (d - 1) % 8 = 6 then ppuRead c m (p.bgPatternAddr + 8) else p.ptHi) := by
  rw [bgDot, bgScroll_only_v]
  have hlatches := bgFetch_latches c m d (bgShift d p)
  rw [bgShift_shifters] at hlatches ⊢
  exact hlatches

/-- The shifters after the background work of a dot. -/
theorem bgDot_shifters :
    (bgDot k c m sl d p).bgLo = shiftedBy d p.bgLo p.ptLo ∧ (bgDot k c m sl d p).bgHi = shiftedBy d p.bgHi p.ptHi ∧
    (bgDot k c m sl d p).atLo = shiftedBy d p.atLo (fill (p.atBits.getLsbD 0)) ∧
    (bgDot k c m sl d p).atHi = shiftedBy d p.atHi (fill (p.atBits.getLsbD 1)) := by
  rw [bgDot, bgScroll_only_v]
  have hshifters := bgFetch_shifters c m d (bgShift d p)
  rw [bgShift_shifters] at hshifters ⊢
  exact hshifters

end

end Sys2Proof.Machine

namespace Sys2Proof.Spec

open Sys2Proof.Machine

/-- A shifter after a dot, on numbers. -/
theorem shifter_after_dot {s : State} {old new : BitVec 16} {load : Byte}
    (hrendering : Rendering s → new = shiftedBy s.ppu.dot old load) (hidle : ¬Rendering s → new = old) :
    let shifts := Rendering s ∧ ((2 ≤ s.ppu.dot ∧ s.ppu.dot ≤ 257) ∨ (322 ≤ s.ppu.dot ∧ s.ppu.dot ≤ 337))
    (shifts → s.ppu.dot % 8 = 1 → new.toNat = old.toNat * 2 / 256 % 256 * 256 + load.toNat) ∧
      (shifts → s.ppu.dot % 8 ≠ 1 → new.toNat = old.toNat * 2 % 65536) ∧ (¬shifts → new = old) := by
  have hdots : isShiftDot s.ppu.dot = true ↔
      (2 ≤ s.ppu.dot ∧ s.ppu.dot ≤ 257) ∨ (322 ≤ s.ppu.dot ∧ s.ppu.dot ≤ 337) := by
    simp only [isShiftDot, Bool.or_eq_true, decide_eq_true_eq]
  simp only [← hdots]
  refine ⟨fun ⟨h, hshift⟩ hphase => ?_, fun ⟨h, hshift⟩ hphase => ?_, fun hoff => ?_⟩
  · rw [hrendering h, toNat_shiftedBy_reload hshift hphase]
  · rw [hrendering h, toNat_shiftedBy_shift hshift hphase]
  · by_cases h : Rendering s
    · rw [hrendering h, shiftedBy_off fun hshift => hoff ⟨h, hshift⟩]
    · exact hidle h

/-- A latch after a dot: loaded at its phase, kept at every other. -/
theorem latch_after_dot {α : Type} {s : State} {old new load : α} {phase : Nat}
    (hrendering : Rendering s → new = if isFetchDot s.ppu.dot ∧ (s.ppu.dot - 1) % 8 = phase then load else old)
    (hidle : ¬Rendering s → new = old) :
    let fetches := Rendering s ∧ ((1 ≤ s.ppu.dot ∧ s.ppu.dot ≤ 256) ∨ (321 ≤ s.ppu.dot ∧ s.ppu.dot ≤ 336)) ∧
      (s.ppu.dot - 1) % 8 = phase
    (fetches → new = load) ∧ (¬fetches → new = old) := by
  have hdots : isFetchDot s.ppu.dot = true ↔
      (1 ≤ s.ppu.dot ∧ s.ppu.dot ≤ 256) ∨ (321 ≤ s.ppu.dot ∧ s.ppu.dot ≤ 336) := by
    simp only [isFetchDot, Bool.or_eq_true, decide_eq_true_eq]
  simp only [← hdots]
  refine ⟨fun ⟨h, hfetch⟩ => ?_, fun hoff => ?_⟩
  · rw [hrendering h, if_pos hfetch]
  · by_cases h : Rendering s
    · rw [hrendering h, if_neg fun hfetch => hoff ⟨h, hfetch⟩]
    · exact hidle h

/-- Settles O54: the addresses are fields of `v` next to each other; the latches are the phases of the fetch layer, the
shifters the shift layer. -/
theorem backgroundFetchAddresses : Obligations.BackgroundFetchAddresses := by
  unfold Obligations.BackgroundFetchAddresses
  refine ⟨fun v b p => ⟨toNat_nametableAddr v, toNat_attributeAddr v, toNat_attributeBits v b,
    toNat_bgPatternAddr p⟩, fun s => ?_⟩
  obtain ⟨hnt, hat, hlo, hhi⟩ := bgDot_latches s.params s.cart s.mem s.ppu.scanline s.ppu.dot s.ppu
  obtain ⟨hbgLo, hbgHi, hatLo, hatHi⟩ := bgDot_shifters s.params s.cart s.mem s.ppu.scanline s.ppu.dot s.ppu
  have hon {α : Type} (field : Background → α) (h : Rendering s) := congrArg field (ppuDot_background h)
  have hoff {α : Type} (field : Background → α) (h : ¬Rendering s) := congrArg field (ppuDot_background_idle h)
  exact ⟨latch_after_dot (fun h => (hon Background.ntByte h).trans hnt) (hoff Background.ntByte),
    latch_after_dot (fun h => (hon Background.atBits h).trans hat) (hoff Background.atBits),
    latch_after_dot (fun h => (hon Background.ptLo h).trans hlo) (hoff Background.ptLo),
    latch_after_dot (fun h => (hon Background.ptHi h).trans hhi) (hoff Background.ptHi),
    shifter_after_dot (fun h => (hon Background.bgLo h).trans hbgLo) (hoff Background.bgLo),
    shifter_after_dot (fun h => (hon Background.bgHi h).trans hbgHi) (hoff Background.bgHi),
    shifter_after_dot (fun h => (hon Background.atLo h).trans hatLo) (hoff Background.atLo),
    shifter_after_dot (fun h => (hon Background.atHi h).trans hatHi) (hoff Background.atHi)⟩

end Sys2Proof.Spec
end

section
/-! SUPPORT. Sprite evaluation: the scan as one pass over the entries in range, and the dots of the phases (O55)
(48_ppu_rendering.md R360 to R364; 92_eei_decisions.md D33, D42). -/

namespace Sys2Proof.Machine

open Sys2Proof.Spec

/-! ### The scan, as a pass over the entries in range -/

/-- What the scan does with an entry in range (R362, R363). -/
def takeEntry (m : Memory) (p : Ppu) (i : Nat) : Ppu :=
  if p.secCount < 8 then
    { p with
      sec := p.sec.setIfInBounds p.secCount (m.sprite i), secHas0 := p.secHas0 || i == 0, secCount := p.secCount + 1 }
  else { p with overflow := true }

/-- The entries in range on line `n`, of the `k` entries from `i` on. -/
def entriesInRange (m : Memory) (n h i k : Nat) : List Nat :=
  (List.range' i k).filter fun j => inRange n (m.sprite j).y.toNat h

section
variable (m : Memory) (n : Nat)

theorem takeEntry_spriteHeight (p : Ppu) (i : Nat) : (takeEntry m p i).spriteHeight = p.spriteHeight := by
  unfold takeEntry
  split_ifs <;> rfl

/-- The scan from entry `i` to the last is a pass over those of them in range. -/
theorem scanEntries_eq_foldl {i k : Nat} (hk : i + k = 64) (p : Ppu) :
    scanEntries m n k p = (entriesInRange m n p.spriteHeight i k).foldl (takeEntry m) p := by
  induction k generalizing i p with
  | zero => rfl
  | succ k ih =>
    have hi : 64 - (k + 1) = i := by omega
    have hscan : scanEntry m n i p =
        if inRange n (m.sprite i).y.toNat p.spriteHeight then takeEntry m p i else p := rfl
    rw [scanEntries, hi, hscan, ih (i := i + 1) (by omega), entriesInRange, entriesInRange, List.range'_succ,
      List.filter_cons]
    split
    · rw [List.foldl_cons, takeEntry_spriteHeight]
    · rfl

/-- What a pass over entries leaves in the four fields of the scan: the count goes on up to eight, a ninth sets the
overflow flag, the slots from the old count on hold the entries in order. -/
structure Scanned (m : Memory) (p q : Ppu) (hits : List Nat) : Prop where
  count : q.secCount = min 8 (p.secCount + hits.length)
  overflow : q.overflow = (p.overflow || decide (8 < p.secCount + hits.length))
  has0 : q.secHas0 = (p.secHas0 || (hits.take (8 - p.secCount)).contains 0)
  found : ∀ (j : Nat) (hj : j < hits.length) (hslot : p.secCount + j < 8), q.sec[p.secCount + j] = m.sprite hits[j]
  kept : ∀ (k : Nat) (hk : k < 8), k < p.secCount ∨ p.secCount + hits.length ≤ k → q.sec[k] = p.sec[k]

theorem scanned_foldl_takeEntry (hits : List Nat) {p : Ppu} (hp : p.secCount ≤ 8) :
    Scanned m p (hits.foldl (takeEntry m) p) hits := by
  induction hits generalizing p with
  | nil => exact ⟨by simpa using hp, by simp [Nat.not_lt.2 hp], by simp, by simp, fun _ _ _ => rfl⟩
  | cons i hits ih =>
    rw [List.foldl_cons]
    by_cases hroom : p.secCount < 8
    · have htake : takeEntry m p i = _ := if_pos hroom
      have hrest := ih (p := takeEntry m p i) (by rw [htake]; exact hroom)
      generalize hits.foldl (takeEntry m) (takeEntry m p i) = q at hrest
      rw [htake] at hrest
      obtain ⟨hcount, hoverflow, hhas0, hfound, hkept⟩ := hrest
      refine ⟨?_, ?_, ?_, ?_, ?_⟩
      · simpa [Nat.add_assoc, Nat.add_comm 1] using hcount
      · simpa [Nat.add_assoc, Nat.add_comm 1] using hoverflow
      · rw [hhas0, show 8 - p.secCount = 8 - (p.secCount + 1) + 1 by omega, List.take_succ_cons, List.contains_cons,
          Bool.or_assoc, Bool.beq_comm]
      · rintro (_ | j) hj hslot
        · have hfirst := hkept p.secCount hroom (.inl (Nat.lt_succ_self _))
          simpa using hfirst
        · have hnext := hfound j (by simpa using hj) (by dsimp only; omega)
          simpa [Nat.add_assoc, Nat.add_comm 1] using hnext
      · intro k hk houtside
        have hside : k < p.secCount + 1 ∨ p.secCount + 1 + hits.length ≤ k := by
          simp only [List.length_cons] at houtside
          omega
        have hne : p.secCount ≠ k := by
          simp only [List.length_cons] at houtside
          omega
        rw [hkept k hk hside]
        exact Vector.getElem_setIfInBounds_ne hk hne
    · have htake : takeEntry m p i = { p with overflow := true } := if_neg hroom
      have hfull : p.secCount = 8 := by omega
      have hrest := ih (p := takeEntry m p i) (by rw [htake]; exact hp)
      generalize hits.foldl (takeEntry m) (takeEntry m p i) = q at hrest
      rw [htake] at hrest
      obtain ⟨hcount, hoverflow, hhas0, hfound, hkept⟩ := hrest
      refine ⟨?_, ?_, ?_, fun j hj hslot => by omega, fun k hk _ => hkept k hk (.inl (by dsimp only; omega))⟩
      · rw [hcount]
        simp [hfull]
      · rw [hoverflow]
        simp [hfull]
      · rw [hhas0]
        simp [hfull]

/-- Sprite 0 is the first entry in range where it is one at all, so it is among the first eight. -/
theorem entriesInRange_take_contains (h k : Nat) :
    ((entriesInRange m n h 0 k).take 8).contains 0 = (entriesInRange m n h 0 k).contains 0 := by
  cases k with
  | zero => rfl
  | succ k =>
    have hrest : 0 ∉ entriesInRange m n h 1 k := by
      simp [entriesInRange]
    rw [entriesInRange, List.range'_succ, List.filter_cons]
    split
    · simp
    · have htake : 0 ∉ (entriesInRange m n h 1 k).take 8 := fun hmem => hrest (List.mem_of_mem_take hmem)
      rw [entriesInRange] at hrest htake
      simp only [List.contains_eq_mem, Nat.zero_add, hrest, htake]

/-- The scan of the 64 entries, from an empty secondary OAM (R362, R363, R364). -/
theorem scanned_scanEntries {p : Ppu} (hp : p.secCount = 0) :
    Scanned m p (scanEntries m n 64 p) (entriesInRange m n p.spriteHeight 0 64) := by
  rw [scanEntries_eq_foldl m n (i := 0) rfl]
  exact scanned_foldl_takeEntry m _ (by omega)

theorem entriesInRange_eq (h : Nat) :
    entriesInRange m n h 0 64 =
      (List.range 64).filter fun i =>
        decide ((m.oamByte (4 * i)).toNat ≤ n ∧ n - (m.oamByte (4 * i)).toNat < h) := by
  have hrange (i : Nat) : inRange n (m.sprite i).y.toNat h =
      decide ((m.oamByte (4 * i)).toNat ≤ n ∧ n - (m.oamByte (4 * i)).toNat < h) := by
    refine decide_eq_decide.2 ?_
    simp only [Memory.sprite]
    omega
  simp only [entriesInRange, hrange, List.range_eq_range']

end

/-! ### The phases, by the dot -/

section
variable (k : Params) (c : Cartridge) (m : Memory) {sl d : Nat} (p : Ppu)

theorem spriteDot_clear (hline : sl ≠ k.preRenderLine) (hdot : d = 64) :
    spriteDot k c m sl d p = clearSecondary p := by
  rw [spriteDot, if_neg hline, if_pos hdot]

theorem spriteDot_scan (hline : sl ≠ k.preRenderLine) (hdot : d = 256) :
    spriteDot k c m sl d p = scanEntries m sl 64 p := by
  rw [spriteDot, if_neg hline, if_neg (by omega), if_pos hdot]

theorem spriteDot_load (hline : sl ≠ k.preRenderLine) (hdot : d = 320) :
    spriteDot k c m sl d p = loadLine c m sl p := by
  rw [spriteDot, if_neg hline, if_neg (by omega), if_neg (by omega), if_pos hdot]

theorem spriteDot_empty (hline : sl = k.preRenderLine) (hdot : d = 320) :
    spriteDot k c m sl d p = { p with lineCount := 0, lineHas0 := false } := by
  rw [spriteDot, if_pos hline, if_pos hdot]

/-- Secondary OAM changes in the first two phases only. -/
theorem spriteDot_secondary_kept (h : ¬(sl ≠ k.preRenderLine ∧ (d = 64 ∨ d = 256))) :
    (spriteDot k c m sl d p).secCount = p.secCount ∧ (spriteDot k c m sl d p).secHas0 = p.secHas0 ∧
      (spriteDot k c m sl d p).sec = p.sec := by
  unfold spriteDot
  split_ifs with hline h320 h64 h256
  · exact ⟨rfl, rfl, rfl⟩
  · exact ⟨rfl, rfl, rfl⟩
  · exact absurd ⟨hline, .inl h64⟩ h
  · exact absurd ⟨hline, .inr h256⟩ h
  · exact ⟨rfl, rfl, rfl⟩
  · exact ⟨rfl, rfl, rfl⟩

end

end Sys2Proof.Machine

namespace Sys2Proof.Spec

open Sys2Proof.Machine

/-- Settles O55: the scan is a pass over the entries in range; the dots are the branches of the sprite phases. -/
theorem spriteEvaluation : Obligations.SpriteEvaluation := by
  unfold Obligations.SpriteEvaluation
  refine ⟨fun m n p hp => ?_, fun s => ?_⟩
  · have hscan := scanned_scanEntries m n hp
    have hhas0 := entriesInRange_take_contains m n p.spriteHeight 64
    rw [entriesInRange_eq] at hscan hhas0
    intro height hits q
    obtain ⟨hcount, hoverflow, hsec0, hfound, hkept⟩ := hscan
    rw [hp, Nat.zero_add] at hcount hoverflow
    rw [hp, Nat.sub_zero, hhas0] at hsec0
    refine ⟨hcount, hoverflow, hsec0, fun k hk hl => ?_, fun k hk hl => hkept k hk (.inr (by rw [hp, Nat.zero_add]; exact hl))⟩
    have hslot := hfound k hl (by omega)
    simp only [hp, Nat.zero_add] at hslot
    exact hslot
  · dsimp only
    have hon {α : Type} (field : SpritePart → α) (h : Rendering s) := congrArg field (ppuDot_spritePart h)
    refine ⟨fun ⟨h, hline⟩ hdot => ?_, fun ⟨h, hline⟩ hdot => ?_, fun hdot => ?_, ppuDot_overflow_kept⟩
    · have hclear (p : Ppu) := spriteDot_clear s.params s.cart s.mem p hline hdot
      rw [hclear] at hon
      refine ⟨hon SpritePart.secCount h, hon SpritePart.secHas0 h, fun j => ?_⟩
      have hsec : (ppuDot s).ppu.sec = _ := hon SpritePart.sec h
      rw [hsec]
      exact Vector.getElem_replicate j.isLt
    · have hscan (p : Ppu) := spriteDot_scan s.params s.cart s.mem p hline hdot
      rw [hscan] at hon
      exact ⟨hon SpritePart.secCount h, hon SpritePart.secHas0 h, hon SpritePart.sec h, hon SpritePart.overflow h⟩
    · by_cases h : Rendering s
      · obtain ⟨hcount, hhas0, hsec⟩ := spriteDot_secondary_kept s.params s.cart s.mem
          { s.ppu with overflow := afterEdge s s.ppu.overflow } fun ⟨hline, hphase⟩ => hdot ⟨⟨h, hline⟩, hphase⟩
        exact ⟨(hon SpritePart.secCount h).trans hcount, (hon SpritePart.secHas0 h).trans hhas0,
          (hon SpritePart.sec h).trans hsec⟩
      · have hidle := ppuDot_spritePart_idle h
        exact ⟨congrArg SpritePart.secCount hidle, congrArg SpritePart.secHas0 hidle, congrArg SpritePart.sec hidle⟩

end Sys2Proof.Spec
end

section
/-! SUPPORT. The sprite pattern fetch: row, address and flips of one sprite, and the dots at which the line changes (O56)
(48_ppu_rendering.md R360, R365, R366, R367; 92_eei_decisions.md D33, D44). -/

namespace Sys2Proof.Machine

open Sys2Proof.Spec

/-! ### One sprite -/

/-- The row of a sprite as D44 gives it, on integers. -/
def spriteRowNat (h n : Nat) (e : Sprite) : Nat :=
  ((if e.attr.getLsbD 7 then (h : Int) - 1 - (n - e.y.toNat) else n - e.y.toNat) % (h : Int)).toNat

theorem toNat_spriteRow_large (n : Nat) (e : Sprite) : (spriteRow 16 n e).toNat = spriteRowNat 16 n e := by
  unfold spriteRow spriteRowNat
  cases e.attr.getLsbD 7 with
  | true =>
    simp only [if_true, BitVec.toNat_sub, BitVec.toNat_ofNat, BitVec.toNat_setWidth]
    omega
  | false =>
    simp only [Bool.false_eq_true, if_false, BitVec.toNat_sub, BitVec.toNat_ofNat, BitVec.toNat_setWidth]
    omega

theorem toNat_spriteRow_small (n : Nat) (e : Sprite) : (spriteRow 8 n e).toNat % 8 = spriteRowNat 8 n e := by
  unfold spriteRow spriteRowNat
  cases e.attr.getLsbD 7 with
  | true =>
    simp only [if_true, BitVec.toNat_sub, BitVec.toNat_ofNat, BitVec.toNat_setWidth]
    omega
  | false =>
    simp only [Bool.false_eq_true, if_false, BitVec.toNat_sub, BitVec.toNat_ofNat, BitVec.toNat_setWidth]
    omega

/-- The address of a sprite's row, for both heights, on numbers (R366). -/
theorem spritePatternAddr_eq (p : Ppu) (n : Nat) (e : Sprite) :
    p.spritePatternAddr n e = BitVec.ofNat 14
      (if p.ctrl.getLsbD 5 then
        e.tile.toNat % 2 * 4096 + (e.tile.toNat / 2 * 2 + spriteRowNat p.spriteHeight n e / 8) * 16 +
          spriteRowNat p.spriteHeight n e % 8
      else (p.ctrl.getLsbD 3).toNat * 4096 + e.tile.toNat * 16 + spriteRowNat p.spriteHeight n e) := by
  have htile := e.tile.isLt
  apply BitVec.eq_of_toNat_eq
  unfold Ppu.spritePatternAddr Ppu.spriteHeight
  split
  · have hrow := (spriteRow 16 n e).isLt
    have hpair : e.tile.toNat / 2 % 128 = e.tile.toNat / 2 := by omega
    have hhalf : (spriteRow 16 n e).toNat / 8 % 2 = (spriteRow 16 n e).toNat / 8 := by omega
    simp only [← toNat_spriteRow_large, toNat_append_eq_add, BitVec.extractLsb'_toNat, BitVec.toNat_ofNat,
      Nat.shiftRight_eq_div_pow, Nat.reducePow, Nat.div_one, hpair, hhalf]
    omega
  · have hbit := (p.ctrl.getLsbD 3).toNat_lt
    simp only [← toNat_spriteRow_small, bit, toNat_append_eq_add, BitVec.extractLsb'_toNat, BitVec.toNat_ofNat,
      BitVec.toNat_ofBool, Nat.shiftRight_eq_div_pow]
    omega

theorem getLsbD_rev8 (b : Byte) {k : Nat} (hk : k < 8) : (rev8 b).getLsbD k = b.getLsbD (7 - k) := by
  rw [rev8, BitVec.getLsbD_reverse, BitVec.getMsbD_eq_getLsbD, decide_eq_true hk, Bool.true_and]

/-- The two planes of a loaded sprite: read at the address, flipped where asked (R366, R367). -/
theorem loadSprite_getLsbD (p : Ppu) (c : Cartridge) (m : Memory) (n : Nat) (e : Sprite) {k : Nat} (hk : k < 8) :
    (p.loadSprite c m n e).lo.getLsbD k =
      (ppuRead c m (p.spritePatternAddr n e)).getLsbD (if e.attr.getLsbD 6 then 7 - k else k) ∧
    (p.loadSprite c m n e).hi.getLsbD k =
      (ppuRead c m (p.spritePatternAddr n e + 8)).getLsbD (if e.attr.getLsbD 6 then 7 - k else k) := by
  unfold Ppu.loadSprite
  split
  · exact ⟨getLsbD_rev8 _ hk, getLsbD_rev8 _ hk⟩
  · exact ⟨rfl, rfl⟩

theorem loadSprite_attributes (p : Ppu) (c : Cartridge) (m : Memory) (n : Nat) (e : Sprite) :
    (p.loadSprite c m n e).attr = e.attr ∧ (p.loadSprite c m n e).xpos = e.x := by
  unfold Ppu.loadSprite
  split <;> exact ⟨rfl, rfl⟩

/-! ### The line, by the dot -/

section
variable (k : Params) (c : Cartridge) (m : Memory) {sl d : Nat} (p : Ppu)

theorem scanEntry_line (n i : Nat) :
    (scanEntry m n i p).lineCount = p.lineCount ∧ (scanEntry m n i p).lineHas0 = p.lineHas0 ∧
      (scanEntry m n i p).line = p.line := by
  unfold scanEntry
  dsimp only
  split_ifs <;> exact ⟨rfl, rfl, rfl⟩

theorem scanEntries_line (n j : Nat) :
    (scanEntries m n j p).lineCount = p.lineCount ∧ (scanEntries m n j p).lineHas0 = p.lineHas0 ∧
      (scanEntries m n j p).line = p.line := by
  induction j generalizing p with
  | zero => exact ⟨rfl, rfl, rfl⟩
  | succ j ih =>
    obtain ⟨hcount, hhas0, hline⟩ := ih (scanEntry m n (64 - (j + 1)) p)
    obtain ⟨hcount', hhas0', hline'⟩ := scanEntry_line m p n (64 - (j + 1))
    exact ⟨hcount.trans hcount', hhas0.trans hhas0', hline.trans hline'⟩

/-- The sprites of the line change at dot 320 only. -/
theorem spriteDot_line_kept (h : d ≠ 320) :
    (spriteDot k c m sl d p).lineCount = p.lineCount ∧ (spriteDot k c m sl d p).lineHas0 = p.lineHas0 ∧
      (spriteDot k c m sl d p).line = p.line := by
  unfold spriteDot
  split_ifs
  · exact ⟨rfl, rfl, rfl⟩
  · exact ⟨rfl, rfl, rfl⟩
  · exact scanEntries_line m p sl 64
  · exact ⟨rfl, rfl, rfl⟩

end

end Sys2Proof.Machine

namespace Sys2Proof.Spec

open Sys2Proof.Machine

/-- Settles O56: a row of four bits is the distance modulo the height; the dots are the branches of the sprite phases. -/
theorem spritePatternFetch : Obligations.SpritePatternFetch := by
  unfold Obligations.SpritePatternFetch
  refine ⟨fun c m n e p => ?_, fun s => ?_⟩
  · obtain ⟨hattr, hxpos⟩ := loadSprite_attributes p c m n e
    refine ⟨hattr, hxpos, fun k hk => ?_⟩
    have hplanes := loadSprite_getLsbD p c m n e hk
    rw [spritePatternAddr_eq, show (8 : PpuAddr) = BitVec.ofNat 14 8 from rfl, ← BitVec.ofNat_add] at hplanes
    exact hplanes
  · dsimp only
    have hon {α : Type} (field : SpritePart → α) (h : Rendering s) := congrArg field (ppuDot_spritePart h)
    refine ⟨fun ⟨h, hline⟩ hdot => ?_, fun h hline hdot => ?_, fun hdot => ?_⟩
    · have hload (p : Ppu) := spriteDot_load s.params s.cart s.mem p hline hdot
      rw [hload] at hon
      refine ⟨hon SpritePart.lineCount h, hon SpritePart.lineHas0 h, fun j => ?_⟩
      have hslots : (ppuDot s).ppu.line = _ := hon SpritePart.line h
      rw [hslots]
      exact Vector.getElem_ofFn j.isLt
    · have hempty (p : Ppu) := spriteDot_empty s.params s.cart s.mem p hline hdot
      rw [hempty] at hon
      exact ⟨hon SpritePart.lineCount h, hon SpritePart.lineHas0 h, hon SpritePart.line h⟩
    · by_cases h : Rendering s
      · obtain ⟨hcount, hhas0, hslots⟩ := spriteDot_line_kept s.params s.cart s.mem (sl := s.ppu.scanline)
          { s.ppu with overflow := afterEdge s s.ppu.overflow } fun hload => hdot ⟨h, hload⟩
        exact ⟨(hon SpritePart.lineCount h).trans hcount, (hon SpritePart.lineHas0 h).trans hhas0,
          (hon SpritePart.line h).trans hslots⟩
      · have hidle := ppuDot_spritePart_idle h
        exact ⟨congrArg SpritePart.lineCount hidle, congrArg SpritePart.lineHas0 hidle,
          congrArg SpritePart.line hidle⟩

end Sys2Proof.Spec
end

section
/-! SUPPORT. The pixel of a sprite and the sprite that shows (O57), then the pixel of a dot (O58)
(48_ppu_rendering.md R345, R358, R368, R370 to R373; 92_eei_decisions.md D34, D35). -/

namespace Sys2Proof.Machine

open Sys2Proof.Spec

/-! ### The pixel of a sprite and the first opaque one -/

theorem toNat_getLsbD {w : Nat} (b : BitVec w) (k : Nat) : (b.getLsbD k).toNat = b.toNat / 2 ^ k % 2 := by
  rw [← BitVec.testBit_toNat, Nat.toNat_testBit]

theorem bit_toNat (b : Bool) : (bit b).toNat = b.toNat := BitVec.toNat_ofBool b

theorem toNat_pixel (q : LineSprite) (x : Nat) :
    (q.pixel x).toNat =
      if q.xpos.toNat ≤ x ∧ x ≤ q.xpos.toNat + 7 then
        q.hi.toNat / 2 ^ (7 - (x - q.xpos.toNat)) % 2 * 2 + q.lo.toNat / 2 ^ (7 - (x - q.xpos.toNat)) % 2
      else 0 := by
  unfold LineSprite.pixel
  split
  · rw [toNat_append_eq_add, bit_toNat, bit_toNat, toNat_getLsbD, toNat_getLsbD, pow_one]
  · rfl

/-- The first opaque sprite of a list numbered from `b`: the one with only transparent ones before it. -/
theorem firstOpaque_eq_some {x b j : Nat} {q : LineSprite} {l : List LineSprite} :
    firstOpaque x b l = some (j, q) ↔
      ∃ i, j = b + i ∧ l[i]? = some q ∧ q.pixel x ≠ 0 ∧ ∀ i' r, i' < i → l[i']? = some r → r.pixel x = 0 := by
  induction l generalizing b with
  | nil => simp [firstOpaque]
  | cons e l ih =>
    rw [firstOpaque]
    split <;> rename_i he
    · rw [ih]
      constructor
      · rintro ⟨i, rfl, hi, hq, hbefore⟩
        refine ⟨i + 1, by omega, by simpa using hi, hq, ?_⟩
        rintro (_ | i') r hlt hr
        · obtain rfl : e = r := by simpa using hr
          exact he
        · exact hbefore i' r (by omega) (by simpa using hr)
      · rintro ⟨_ | i, hj, hi, hq, hbefore⟩
        · obtain rfl : e = q := by simpa using hi
          exact absurd he hq
        · exact ⟨i, by omega, by simpa using hi, hq, fun i' r hlt hr =>
            hbefore (i' + 1) r (by omega) (by simpa using hr)⟩
    · constructor
      · rintro ⟨⟩
        exact ⟨0, rfl, rfl, he, fun i' r hlt => absurd hlt (Nat.not_lt_zero i')⟩
      · rintro ⟨_ | i, rfl, hi, hq, hbefore⟩
        · obtain rfl : e = q := by simpa using hi
          rfl
        · exact absurd (hbefore 0 e (by omega) rfl) he

/-- Sprites are shown at the column (R368). -/
theorem spriteAt_eq_some {p : Ppu} {x j : Nat} {q : LineSprite} :
    p.spriteAt x = some (j, q) ↔
      (p.mask.getLsbD 4 = true ∧ ¬(x < 8 ∧ p.mask.getLsbD 2 = false)) ∧
        firstOpaque x 0 (p.line.toList.take p.lineCount) = some (j, q) := by
  unfold Ppu.spriteAt
  split <;> rename_i hshown
  · simp only [Bool.and_eq_true, Bool.not_eq_true', Bool.and_eq_false_iff, decide_eq_false_iff_not] at hshown
    refine (and_iff_right ⟨hshown.1, ?_⟩).symm
    rintro ⟨hx, hleft⟩
    have hshown' := hshown.2
    rw [hleft] at hshown'
    exact absurd hshown' (by simp [hx])
  · refine iff_of_false (by simp) ?_
    rintro ⟨⟨hon, hleft⟩, -⟩
    simp [hon] at hshown
    exact hleft hshown

/-! ### The parts of a pixel, on numbers -/

section
variable (m : Memory) (p : Ppu) (x : Nat)

theorem toNat_bgPixel :
    (p.bgPixel x).toNat =
      if p.mask.getLsbD 3 = false ∨ (x < 8 ∧ p.mask.getLsbD 1 = false) then 0
      else (p.bgHi.getLsbD (15 - p.x.toNat)).toNat * 2 + (p.bgLo.getLsbD (15 - p.x.toNat)).toNat := by
  unfold Ppu.bgPixel
  simp only [Bool.or_eq_true, Bool.and_eq_true, Bool.not_eq_true', decide_eq_true_eq]
  split
  · rfl
  · rw [toNat_append_eq_add, bit_toNat, bit_toNat, pow_one]

theorem toNat_bgPalette :
    p.bgPalette.toNat =
      (p.atHi.getLsbD (15 - p.x.toNat)).toNat * 2 + (p.atLo.getLsbD (15 - p.x.toNat)).toNat := by
  rw [Ppu.bgPalette, toNat_append_eq_add, bit_toNat, bit_toNat, pow_one]

theorem toNat_bgEntry (pal bgp : BitVec 2) : (bgEntry pal bgp).toNat = pal.toNat * 4 + bgp.toNat := by
  simp only [bgEntry, toNat_append_eq_add, BitVec.toNat_ofNat]
  omega

theorem toNat_spriteEntry (q : LineSprite) :
    (spriteEntry q x).toNat = 16 + q.attr.toNat % 4 * 4 + (q.pixel x).toNat := by
  simp only [spriteEntry, toNat_append_eq_add, BitVec.toNat_ofNat, BitVec.extractLsb'_toNat, Nat.shiftRight_zero]
  omega

theorem eq_zero_iff_toNat {w : Nat} (b : BitVec w) : b = 0 ↔ b.toNat = 0 := by
  refine BitVec.toNat_inj.symm.trans ?_
  rw [BitVec.ofNat_eq_ofNat, BitVec.toNat_ofNat, Nat.zero_mod]

/-- The palette entry with no sprite at the column (R370). -/
theorem toNat_paletteEntry_none (h : p.spriteAt x = none) :
    (p.paletteEntry x).toNat =
      if (p.bgPixel x).toNat = 0 then 0 else p.bgPalette.toNat * 4 + (p.bgPixel x).toNat := by
  unfold Ppu.paletteEntry
  simp only [h, eq_zero_iff_toNat]
  split
  · rfl
  · exact toNat_bgEntry _ _

/-- The palette entry with a sprite at the column: the sprite's over a transparent pixel or in front of the background
(R370). -/
theorem toNat_paletteEntry_some {j : Nat} {q : LineSprite} (h : p.spriteAt x = some (j, q)) :
    (p.paletteEntry x).toNat =
      if (p.bgPixel x).toNat = 0 ∨ q.attr.getLsbD 5 = false then 16 + q.attr.toNat % 4 * 4 + (q.pixel x).toNat
      else p.bgPalette.toNat * 4 + (p.bgPixel x).toNat := by
  unfold Ppu.paletteEntry
  simp only [h, eq_zero_iff_toNat]
  by_cases hclear : (p.bgPixel x).toNat = 0
  · rw [if_pos hclear, if_pos (.inl hclear), toNat_spriteEntry]
  · cases hbehind : q.attr.getLsbD 5 with
    | true => rw [if_neg hclear, if_pos rfl, if_neg (by simp [hclear]), toNat_bgEntry]
    | false => rw [if_neg hclear, if_neg (by simp), if_pos (.inr rfl), toNat_spriteEntry]

/-- The cell of a palette entry (R95). -/
theorem palIndex_entry (entry : BitVec 5) :
    palIndex (0x3F00 ||| entry.setWidth 14) = if entry.toNat % 4 = 0 then entry.toNat % 16 else entry.toNat := by
  have hentry := entry.isLt
  have haddr : (0x3F00 ||| entry.setWidth 14 : PpuAddr).toNat = 0x3F00 + entry.toNat := by
    rw [BitVec.toNat_or, BitVec.toNat_setWidth_of_le (by decide)]
    exact (Nat.two_pow_add_eq_or_of_lt (i := 5) hentry 0x1F8).symm
  rw [palIndex_eq, haddr]
  split_ifs <;> omega

/-- Greyscale keeps the row of a colour (R373). -/
theorem greyscale_eq (c : BitVec 6) : c &&& 0x30 = BitVec.ofNat 6 (c.toNat / 16 * 16) := by
  revert c
  decide

theorem emphasis_eq (mask : Byte) : mask.extractLsb' 5 3 = BitVec.ofNat 3 (mask.toNat / 32) := by
  apply BitVec.eq_of_toNat_eq
  rw [BitVec.extractLsb'_toNat, BitVec.toNat_ofNat, Nat.shiftRight_eq_div_pow]

/-- The palette entry a pixel shows: entry 0 with rendering off (R372). -/
def Ppu.shownEntry (p : Ppu) (x : Nat) : BitVec 5 := if p.rendering then p.paletteEntry x else 0

theorem shownEntry_off {p : Ppu} (h : p.mask.getLsbD 3 = false ∧ p.mask.getLsbD 4 = false) : p.shownEntry x = 0 := by
  rw [Ppu.shownEntry, Ppu.rendering, h.1, h.2]
  rfl

theorem shownEntry_on {p : Ppu} (h : ¬(p.mask.getLsbD 3 = false ∧ p.mask.getLsbD 4 = false)) :
    p.shownEntry x = p.paletteEntry x := by
  rw [Ppu.shownEntry, Ppu.rendering]
  refine if_pos (by_contra fun hoff => h ?_)
  simpa using hoff

/-- The pixel event, with its colour read from the palette cell of the entry shown (R372, R373). -/
theorem emitPixel_pixel (y : Nat) :
    (emitPixel m x y p).pixel =
      let entry := (p.shownEntry x).toNat
      let cell := m.palCell (if entry % 4 = 0 then entry % 16 else entry)
      some { x := x, y := y
             colour := if p.mask.getLsbD 0 then BitVec.ofNat 6 (cell.toNat / 16 * 16) else cell
             emphasis := BitVec.ofNat 3 (p.mask.toNat / 32) } := by
  dsimp only
  rw [← palIndex_entry, ← greyscale_eq, ← emphasis_eq]
  rfl

/-- The sprite-0 hit, and the condition that sets it (R371). -/
theorem emitPixel_s0hit (y : Nat) :
    (emitPixel m x y p).s0hit = true ↔
      p.s0hit = true ∨ ((∃ e, p.spriteAt x = some (0, e)) ∧ (p.bgPixel x).toNat ≠ 0 ∧ p.lineHas0 = true ∧
        p.mask.getLsbD 3 = true ∧ p.mask.getLsbD 4 = true ∧ x ≠ 255) := by
  have hhits : p.hitsSprite0 x = true ↔
      (∃ e, p.spriteAt x = some (0, e)) ∧ (p.bgPixel x).toNat ≠ 0 ∧ p.lineHas0 = true ∧
        p.mask.getLsbD 3 = true ∧ p.mask.getLsbD 4 = true ∧ x ≠ 255 := by
    unfold Ppu.hitsSprite0
    cases hsprite : p.spriteAt x with
    | none => simp
    | some shown =>
      obtain ⟨j, e⟩ := shown
      simp only [Bool.and_eq_true, bne_iff_ne, beq_iff_eq, ne_eq, eq_zero_iff_toNat, Option.some.injEq,
        Prod.mk.injEq, exists_and_left, exists_eq', and_true]
      tauto
  simp only [emitPixel, Bool.or_eq_true, Bool.and_eq_true, Ppu.rendering, hhits]
  tauto

/-- What shows at a column depends on the mask and the sprites of the line. -/
theorem spriteAt_congr {p q : Ppu} (hmask : p.mask = q.mask) (hline : p.spritePart = q.spritePart) (x : Nat) :
    p.spriteAt x = q.spriteAt x := by
  have hslots : p.line = q.line := congrArg SpritePart.line hline
  have hcount : p.lineCount = q.lineCount := congrArg SpritePart.lineCount hline
  rw [Ppu.spriteAt, Ppu.spriteAt, hmask, hslots, hcount]

end

end Sys2Proof.Machine

namespace Sys2Proof.Spec

open Sys2Proof.Machine

/-- Settles O57: the search for the first opaque sprite, by induction on the list. -/
theorem lowestOpaqueSpriteWins : Obligations.LowestOpaqueSpriteWins := by
  unfold Obligations.LowestOpaqueSpriteWins
  refine ⟨toNat_pixel, fun p x j q => ?_⟩
  rw [spriteAt_eq_some, firstOpaque_eq_some]
  constructor
  · rintro ⟨⟨hon, hleft⟩, i, hj, hi, hq, hbefore⟩
    obtain rfl : j = i := by omega
    rw [List.getElem?_take] at hi
    split at hi <;> rename_i hcount
    · refine ⟨hon, hleft, hcount, hi, hq, fun i' r hlt hr => hbefore i' r hlt ?_⟩
      rw [List.getElem?_take, if_pos (by omega), hr]
    · cases hi
  · rintro ⟨hon, hleft, hcount, hi, hq, hbefore⟩
    refine ⟨⟨hon, hleft⟩, j, by omega, ?_, hq, fun i' r hlt hr => hbefore i' r hlt ?_⟩
    · rw [List.getElem?_take, if_pos hcount, hi]
    · rwa [List.getElem?_take, if_pos (by omega)] at hr

/-- Settles O58: the output reads the PPU as the rendering work leaves it, which is how the dot leaves it. -/
theorem pixelOutput : Obligations.PixelOutput := by
  unfold Obligations.PixelOutput
  intro s
  have hframe := rendered_frame s
  have hmask : (rendered s).mask = s.ppu.mask := hframe.mask
  have hscanline : (rendered s).scanline = s.ppu.scanline := hframe.scanline
  have hdot : (rendered s).dot = s.ppu.dot := hframe.dot
  have hx : (rendered s).x = s.ppu.x := hframe.x
  obtain ⟨-, hmask', -⟩ := ppuDot_registers s
  intro q mask x bit bgp background sprite entry cell hit kept
  have hsprite : q.spriteAt x = (rendered s).spriteAt x :=
    spriteAt_congr (hmask'.trans hmask.symm) (ppuDot_spritePart_rendered s) x
  have hbit (field : Background → BitVec 16) : bit (field q.background) =
      ((field (rendered s).background).getLsbD (15 - (rendered s).x.toNat)).toNat := by
    rw [ppuDot_background_rendered, hx]
  have hbgp : bgp = ((rendered s).bgPixel x).toNat := by
    have hhi : bit q.bgHi = _ := hbit Background.bgHi
    have hlo : bit q.bgLo = _ := hbit Background.bgLo
    simp only [bgp, hhi, hlo]
    rw [toNat_bgPixel, hmask]
    rfl
  have hbackground : background = (rendered s).bgPalette.toNat * 4 + ((rendered s).bgPixel x).toNat := by
    have hhi : bit q.atHi = _ := hbit Background.atHi
    have hlo : bit q.atLo = _ := hbit Background.atLo
    simp only [background, hhi, hlo]
    rw [toNat_bgPalette, ← hbgp]
    rfl
  have hentry : entry = ((rendered s).shownEntry x).toNat := by
    simp only [entry, hsprite]
    by_cases hoff : mask.getLsbD 3 = false ∧ mask.getLsbD 4 = false
    · rw [if_pos hoff, shownEntry_off x (hmask ▸ hoff)]
      rfl
    · rw [if_neg hoff, shownEntry_on x (hmask ▸ hoff)]
      cases hshown : (rendered s).spriteAt x with
      | none => rw [toNat_paletteEntry_none _ _ hshown, ← hbackground, ← hbgp]
      | some shown => rw [toNat_paletteEntry_some _ _ hshown, ← hbackground, ← hbgp]
  have hcell : cell = s.mem.palCell (if ((rendered s).shownEntry x).toNat % 4 = 0 then
      ((rendered s).shownEntry x).toNat % 16 else ((rendered s).shownEntry x).toNat) := by
    rw [← hentry]
  have hpixel : q.pixel = (outputDot s.mem (rendered s)).pixel := ppuDot_pixel s
  have hhit : q.s0hit = (outputDot s.mem (rendered s)).s0hit := ppuDot_s0hit s
  have hline0 : q.lineHas0 = (rendered s).lineHas0 :=
    congrArg SpritePart.lineHas0 (ppuDot_spritePart_rendered s)
  have hkept : (rendered s).s0hit = kept := rendered_s0hit s
  rw [hpixel, hhit, hcell, outputDot, hscanline, hdot]
  split
  · refine ⟨?_, ?_⟩
    · rw [emitPixel_pixel, hmask]
    · rw [emitPixel_s0hit, hkept, hmask, ← hsprite, ← hbgp, ← hline0]
  · exact ⟨rfl, hkept⟩

end Sys2Proof.Spec
end

section
/-! SUPPORT. Ticks, instruction boundaries and runs (O46): what elapses between two CPU steps, as an operation of its own, which the
ticks and the coarser step share (49_dma_clock.md R401, R402, R405; 70_reset_and_hazards.md R481; 92_eei_decisions.md D43). -/

namespace Sys2Proof.Machine

open Sys2Proof.Spec

/-! ### Dots do not see the clock -/

/-- The master counter, the CPU cycle counter and the stall cycles set. -/
def State.setClock (master cyc stall : Nat) (s : State) : State :=
  { s with cpu := { s.cpu with cyc := cyc, stall := stall }, master := master }

section
variable (master cyc stall : Nat) (s : State)

theorem vblankStart_setClock : vblankStart (s.setClock master cyc stall) = (vblankStart s).setClock master cyc stall := by
  by_cases h : s.params.vblSet = (s.ppu.scanline, s.ppu.dot)
  · rw [vblankStart_at h, vblankStart_at (s := s.setClock master cyc stall) h]
    rfl
  · rw [vblankStart_off h, vblankStart_off (s := s.setClock master cyc stall) h]

theorem vblankEnd_setClock : vblankEnd (s.setClock master cyc stall) = (vblankEnd s).setClock master cyc stall := by
  by_cases h : s.params.vblClear = (s.ppu.scanline, s.ppu.dot)
  · rw [vblankEnd_at h, vblankEnd_at (s := s.setClock master cyc stall) h]
    rfl
  · rw [vblankEnd_off h, vblankEnd_off (s := s.setClock master cyc stall) h]

theorem ppuDot_setClock : ppuDot (s.setClock master cyc stall) = (ppuDot s).setClock master cyc stall := by
  simp only [ppuDot, Sys2Proof.Machine.vblankEdges, vblankStart_setClock, vblankEnd_setClock]
  rfl

theorem ppuDots_setClock (n : Nat) :
    ppuDots n (s.setClock master cyc stall) = (ppuDots n s).setClock master cyc stall := by
  induction n generalizing s with
  | zero => rfl
  | succ n ih => rw [ppuDots, ppuDots, ppuDot_setClock, ih]

end

/-! ### Dots and stall cycles that elapse -/

/-- The state after `dots` master ticks in which `cycles` stall cycles are burnt and no CPU step runs. -/
def State.elapse (dots cycles : Nat) (s : State) : State :=
  (ppuDots dots s).setClock (s.master + dots) (s.cpu.cyc + cycles) (s.cpu.stall - cycles)

section
variable (d c : Nat) (s : State)

theorem elapse_eq :
    s.elapse d c = { s with
      cpu := { s.cpu with
        cyc := s.cpu.cyc + c, stall := s.cpu.stall - c, nmiPending := (s.elapse d c).cpu.nmiPending }
      ppu := (s.elapse d c).ppu
      master := s.master + d } := by
  rw [State.elapse, ppuDots_eq]
  rfl

@[simp] theorem elapse_params : (s.elapse d c).params = s.params := by rw [elapse_eq]
@[simp] theorem elapse_halted : (s.elapse d c).halted = s.halted := by rw [elapse_eq]
@[simp] theorem elapse_master : (s.elapse d c).master = s.master + d := by rw [elapse_eq]
@[simp] theorem elapse_stall : (s.elapse d c).cpu.stall = s.cpu.stall - c := by rw [elapse_eq]

theorem elapse_elapse (d' c' : Nat) : (s.elapse d c).elapse d' c' = s.elapse (d + d') (c + c') := by
  rw [State.elapse, elapse_master, elapse_stall, State.elapse, ppuDots_setClock, State.elapse, ppuDots_add,
    Nat.add_assoc, Nat.sub_sub]
  simp only [State.setClock, Nat.add_assoc]

theorem endTick_eq_elapse : endTick s = s.elapse 1 0 := by
  rw [endTick_eq, State.elapse, ppuDots, ppuDots, ppuDot_eq]
  rfl

end

/-! ### Ticks -/

theorem ticks_trans {j k : Nat} {s t u : State} (h : Ticks j s t) (h' : Ticks k t u) : Ticks (j + k) s u := by
  induction j generalizing s with
  | zero =>
    obtain rfl : t = s := h
    rwa [Nat.zero_add]
  | succ j ih =>
    obtain ⟨v, hv, h⟩ := h
    rw [Nat.succ_add]
    exact ⟨v, hv, ih h⟩

section
variable {s : State}

/-- Where none of the ticks is a CPU tick, dots elapse. -/
theorem ticks_dots (h : s.halted = .running) (ha : s.params.admitted = true) {n : Nat}
    (hm : ∀ i, i < n → ¬(s.master + i) % s.params.ppuPerCpu = 0) : Ticks n s (s.elapse n 0) := by
  induction n generalizing s with
  | zero => rfl
  | succ n ih =>
    refine ⟨s.elapse 1 0, ?_, ?_⟩
    · rw [step_dotTick h ha (hm 0 n.succ_pos), endTick_eq_elapse]
    · have hrest := ih (s := s.elapse 1 0) (by simpa using h) (by simpa using ha) fun i hi => by
        rw [elapse_master, elapse_params, Nat.add_assoc, Nat.add_comm 1]
        exact hm (i + 1) (Nat.succ_lt_succ hi)
      rwa [elapse_elapse, Nat.add_comm 1] at hrest

theorem ppuPerCpu_pos {k : Params} (h : k.admitted = true) : 0 < k.ppuPerCpu := by
  refine Nat.pos_of_ne_zero fun hzero => ?_
  rw [not_admitted_of_ppuPerCpu hzero] at h
  cases h

/-- A CPU tick and the dots up to the next one, from the state its CPU cycle leaves. -/
theorem ticks_cycle {t : State} (h : s.halted = .running) (ha : s.params.admitted = true)
    (hm : s.master % s.params.ppuPerCpu = 0) (hcycle : cpuCycle s = .next t) (hhalted : t.halted = s.halted)
    (hparams : t.params = s.params) (hmaster : t.master = s.master) :
    Ticks s.params.ppuPerCpu s (t.elapse s.params.ppuPerCpu 0) := by
  obtain ⟨k, hk⟩ : ∃ k, s.params.ppuPerCpu = k + 1 := ⟨_, (Nat.succ_pred_eq_of_pos (ppuPerCpu_pos ha)).symm⟩
  have hdots : Ticks k (t.elapse 1 0) ((t.elapse 1 0).elapse k 0) := by
    refine ticks_dots (by simp [hhalted, h]) (by simp [hparams, ha]) fun i hi => ?_
    rw [elapse_master, elapse_params, hparams, hmaster, Nat.add_assoc, Nat.add_mod, hm, Nat.zero_add, Nat.mod_mod,
      Nat.mod_eq_of_lt (by omega)]
    omega
  rw [elapse_elapse, Nat.add_comm 1, ← hk] at hdots
  have hstep : step s = .next (t.elapse 1 0) := by
    rw [step_cpuTick h ha hm, hcycle, andThen_next, endTick_eq_elapse]
  rw [hk]
  exact ⟨_, hstep, hk ▸ hdots⟩

/-- The stall cycles elapse, `PPU_PER_CPU` dots each. -/
theorem ticks_stall (h : s.halted = .running) (ha : s.params.admitted = true)
    (hm : s.master % s.params.ppuPerCpu = 0) {n : Nat} (hn : n ≤ s.cpu.stall) :
    Ticks (s.params.ppuPerCpu * n) s (s.elapse (s.params.ppuPerCpu * n) n) := by
  induction n with
  | zero => rfl
  | succ n ih =>
    have hbefore := ih (by omega)
    generalize hs : s.elapse (s.params.ppuPerCpu * n) n = u at hbefore
    have hparams : u.params = s.params := by rw [← hs, elapse_params]
    have hmaster : u.master % u.params.ppuPerCpu = 0 := by
      rw [← hs, elapse_master, elapse_params, Nat.add_mul_mod_self_left, hm]
    have hstall : u.cpu.stall = s.cpu.stall - n := by rw [← hs, elapse_stall]
    have hcycle := ticks_cycle (s := u) (by rw [← hs, elapse_halted, h]) (by rw [hparams, ha]) hmaster
      (cpuCycle_stalled (by omega)) rfl rfl rfl
    have hburnt : (u.setCyc (u.cpu.cyc + 1)).setStall (u.cpu.stall - 1) = u.elapse 0 1 := rfl
    rw [hburnt, elapse_elapse, ← hs, elapse_elapse, elapse_params, Nat.zero_add, Nat.add_zero, hs] at hcycle
    exact ticks_trans hbefore hcycle

/-- The ticks to the next CPU tick. -/
def dotsToCpuTick (s : State) : Nat := (s.params.ppuPerCpu - s.master % s.params.ppuPerCpu) % s.params.ppuPerCpu

theorem dotsToCpuTick_spec (hk : 0 < s.params.ppuPerCpu) :
    (s.master + dotsToCpuTick s) % s.params.ppuPerCpu = 0 ∧
      ∀ i, i < dotsToCpuTick s → ¬(s.master + i) % s.params.ppuPerCpu = 0 := by
  have hlt := Nat.mod_lt s.master hk
  have hpos := Nat.div_add_mod s.master s.params.ppuPerCpu
  unfold dotsToCpuTick
  generalize s.params.ppuPerCpu = k at *
  by_cases hm : s.master % k = 0
  · rw [hm, Nat.sub_zero, Nat.mod_self]
    exact ⟨hm, fun i hi => absurd hi (Nat.not_lt_zero i)⟩
  · rw [Nat.mod_eq_of_lt (a := k - s.master % k) (by omega)]
    refine ⟨?_, fun i hi => ?_⟩
    · rw [Nat.add_mod, Nat.mod_eq_of_lt (a := k - s.master % k) (by omega), Nat.add_sub_cancel' (by omega), Nat.mod_self]
    · rw [Nat.add_mod, Nat.mod_eq_of_lt (a := i) (by omega), Nat.mod_eq_of_lt (by omega)]
      omega

/-- The state at the next instruction boundary. -/
def nextBoundary (s : State) : State := s.elapse (dotsToCpuTick s + s.params.ppuPerCpu * s.cpu.stall) s.cpu.stall

theorem atBoundary_nextBoundary (h : s.halted = .running) (ha : s.params.admitted = true) :
    AtBoundary (nextBoundary s) := by
  refine ⟨by simp [nextBoundary, h], by simp [nextBoundary, ha], ?_, by simp [nextBoundary]⟩
  rw [nextBoundary, elapse_master, elapse_params, ← Nat.add_assoc, Nat.add_mul_mod_self_left]
  exact (dotsToCpuTick_spec (ppuPerCpu_pos ha)).1

theorem ticks_nextBoundary (h : s.halted = .running) (ha : s.params.admitted = true) :
    Ticks (dotsToCpuTick s + s.params.ppuPerCpu * s.cpu.stall) s (nextBoundary s) := by
  obtain ⟨hat, hbefore⟩ := dotsToCpuTick_spec (s := s) (ppuPerCpu_pos ha)
  have hstall := ticks_stall (s := s.elapse (dotsToCpuTick s) 0) (n := s.cpu.stall) (by simp [h]) (by simp [ha])
    (by simpa using hat) (by simp)
  rw [elapse_elapse, elapse_params, Nat.zero_add] at hstall
  exact ticks_trans (ticks_dots h ha hbefore) hstall

theorem toBoundary_eq (h : s.halted = .running) (ha : s.params.admitted = true) :
    toBoundary s = .next (nextBoundary s) := by
  have hclock : (s.setStall 0).setCyc (s.cpu.cyc + s.cpu.stall) =
      s.setClock s.master (s.cpu.cyc + s.cpu.stall) 0 := rfl
  unfold toBoundary
  rw [h]
  simp only [ha, hclock, ppuDots_setClock, nextBoundary, State.elapse, Nat.sub_self]
  rfl

/-! ### The coarser step -/

/-- At a boundary the coarser step is one CPU step, and what elapses of the cycles it reports (R405). -/
theorem boundaryStep_eq (h : AtBoundary s) :
    boundaryStep s = andThen (cpuStep (s.setCyc (s.cpu.cyc + 1))) fun t =>
      .next (t.elapse (s.params.ppuPerCpu * (t.cpu.stall + 1)) t.cpu.stall) := by
  obtain ⟨hrunning, hadmitted, hmaster, hstall⟩ := h
  rw [boundaryStep, toBoundary_self hrunning hadmitted hmaster hstall, andThen_next]
  cases hstep : cpuStep (s.setCyc (s.cpu.cyc + 1)) with
  | next t =>
    have hfixed := cpuStep_fixedPart hstep
    have hcyc : t.cpu.cyc = s.cpu.cyc + 1 := congrArg FixedPart.cyc hfixed
    have hmaster : t.master = s.master := congrArg FixedPart.master hfixed
    have hclock (n : Nat) : (t.setStall 0).setCyc n = t.setClock t.master n 0 := rfl
    simp only [andThen_next, hclock, ppuDots_setClock, State.elapse, hcyc, hmaster, Nat.sub_self, Nat.add_assoc,
      Nat.add_comm 1]
    rfl
  | fault f => rfl
  | refused r => rfl

theorem boundaryStep_nextBoundary (h : s.halted = .running) (ha : s.params.admitted = true) :
    boundaryStep s = boundaryStep (nextBoundary s) := by
  obtain ⟨hrunning, hadmitted, hmaster, hstall⟩ := atBoundary_nextBoundary h ha
  rw [boundaryStep, boundaryStep, toBoundary_eq h ha, toBoundary_self hrunning hadmitted hmaster hstall]

/-- Where its CPU step goes on, the coarser step is a run of ticks to the next boundary (R405). -/
theorem boundaryStep_ticks {t : State} (h : AtBoundary s) (hstep : cpuStep (s.setCyc (s.cpu.cyc + 1)) = .next t) :
    let u := t.elapse (s.params.ppuPerCpu * (t.cpu.stall + 1)) t.cpu.stall
    boundaryStep s = .next u ∧ Ticks (s.params.ppuPerCpu * (t.cpu.stall + 1)) s u ∧ AtBoundary u ∧
      u.master = s.master + s.params.ppuPerCpu * (t.cpu.stall + 1) ∧ u.cpu.cyc = s.cpu.cyc + (t.cpu.stall + 1) := by
  have hboundary := h
  obtain ⟨hrunning, hadmitted, hmaster, hstall⟩ := h
  have hfixed := cpuStep_fixedPart hstep
  have hcyc : t.cpu.cyc = s.cpu.cyc + 1 := congrArg FixedPart.cyc hfixed
  have htmaster : t.master = s.master := congrArg FixedPart.master hfixed
  have hparams : t.params = s.params := congrArg FixedPart.params hfixed
  have hhalted : t.halted = s.halted := congrArg FixedPart.halted hfixed
  refine ⟨by rw [boundaryStep_eq hboundary, hstep, andThen_next], ?_, ⟨?_, ?_, ?_, ?_⟩, ?_, ?_⟩
  · have hcycle := ticks_cycle hrunning hadmitted hmaster ((cpuCycle_boundary hstall).trans hstep) hhalted hparams htmaster
    have hburn := ticks_stall (s := t.elapse s.params.ppuPerCpu 0) (n := t.cpu.stall) (by simp [hhalted, hrunning])
      (by simp [hparams, hadmitted]) (by simp [hparams, htmaster, hmaster]) (by simp)
    rw [elapse_elapse, elapse_params, hparams, Nat.zero_add] at hburn
    rw [Nat.mul_succ, Nat.add_comm]
    exact ticks_trans hcycle hburn
  · rw [elapse_halted, hhalted, hrunning]
  · rw [elapse_params, hparams, hadmitted]
  · rw [elapse_master, elapse_params, hparams, htmaster, Nat.add_mul_mod_self_left, hmaster]
  · rw [elapse_stall, Nat.sub_self]
  · rw [elapse_master, htmaster]
  · rw [elapse_eq, hcyc]
    dsimp only
    omega

/-! ### Runs -/

theorem andThen_pure {α : Type} (r : Result α) : andThen r (fun a => .next a) = r := by cases r <;> rfl

theorem runSteps_one (s : State) : runSteps 1 s = boundaryStep s := andThen_pure (boundaryStep s)

theorem boundaryStep_run {t : State} (h : boundaryStep s = .next t) : (∃ k, Ticks k s t) ∧ AtBoundary t := by
  obtain ⟨u, hu, -⟩ := andThen_eq_next.mp h
  obtain ⟨hrunning, hadmitted, -⟩ := toBoundary_cases hu
  have hboundary := atBoundary_nextBoundary hrunning hadmitted
  rw [boundaryStep_nextBoundary hrunning hadmitted] at h
  have hsplit := h
  rw [boundaryStep_eq hboundary] at hsplit
  obtain ⟨v, hv, -⟩ := andThen_eq_next.mp hsplit
  obtain ⟨hstep, hticks, hat, -⟩ := boundaryStep_ticks hboundary hv
  rw [hstep] at h
  cases h
  exact ⟨⟨_, ticks_trans (ticks_nextBoundary hrunning hadmitted) hticks⟩, hat⟩

/-- A run of CPU steps is a run of ticks, and ends at a boundary (R481, D43). -/
theorem runSteps_ticks {n : Nat} {t : State} (h : runSteps n s = .next t) :
    (∃ k, Ticks k s t) ∧ (0 < n → AtBoundary t) := by
  induction n generalizing s with
  | zero =>
    cases h
    exact ⟨⟨0, rfl⟩, fun hn => absurd hn (Nat.lt_irrefl 0)⟩
  | succ n ih =>
    obtain ⟨u, hu, hrest⟩ := andThen_eq_next.mp h
    obtain ⟨⟨j, hj⟩, hat⟩ := boundaryStep_run hu
    obtain ⟨⟨k, hk⟩, hrestAt⟩ := ih hrest
    refine ⟨⟨j + k, ticks_trans hj hk⟩, fun _ => ?_⟩
    cases n with
    | zero => cases hrest; exact hat
    | succ n => exact hrestAt n.succ_pos

/-- A run of at most `n` CPU steps from `s` ends in `t`, and `t` is its first state with PC at `a` (R481, log entry 26). -/
def FirstAt (a : Word) (n : Nat) (s t : State) : Prop :=
  ∃ m, m ≤ n ∧ runSteps m s = .next t ∧ t.cpu.pc = a ∧ ∀ j v, j < m → runSteps j s = .next v → v.cpu.pc ≠ a

section
variable {a : Word} {n : Nat} {t : State}

theorem runUntilPc_here (h : s.cpu.pc = a) : runUntilPc a n s = .next (some s) := by
  cases n <;> simp [runUntilPc, h]

theorem runUntilPc_zero (h : s.cpu.pc ≠ a) : runUntilPc a 0 s = .next none := by
  simp [runUntilPc, h]

theorem runUntilPc_succ (h : s.cpu.pc ≠ a) : runUntilPc a (n + 1) s = andThen (boundaryStep s) (runUntilPc a n) :=
  if_neg h

/-- With PC there at the start, the run is over at once. -/
theorem firstAt_here (h : s.cpu.pc = a) : FirstAt a n s t ↔ t = s := by
  constructor
  · rintro ⟨_ | m, hm, hrun, hat, hbefore⟩
    · cases hrun
      rfl
    · exact absurd h (hbefore 0 s m.succ_pos rfl)
  · rintro rfl
    exact ⟨0, Nat.zero_le n, rfl, h, fun j v hj => absurd hj (Nat.not_lt_zero j)⟩

theorem firstAt_zero (h : s.cpu.pc ≠ a) : ¬FirstAt a 0 s t := by
  rintro ⟨m, hm, hrun, hat, -⟩
  obtain rfl : m = 0 := by omega
  cases hrun
  exact h hat

/-- Otherwise it goes on from the next boundary. -/
theorem firstAt_succ (h : s.cpu.pc ≠ a) : FirstAt a (n + 1) s t ↔ ∃ u, boundaryStep s = .next u ∧ FirstAt a n u t := by
  constructor
  · rintro ⟨_ | m, hm, hrun, hat, hbefore⟩
    · cases hrun
      exact absurd hat h
    · obtain ⟨u, hu, hrest⟩ := andThen_eq_next.mp hrun
      refine ⟨u, hu, m, Nat.le_of_succ_le_succ hm, hrest, hat, fun j v hj hv => ?_⟩
      exact hbefore (j + 1) v (Nat.succ_lt_succ hj) (andThen_eq_next.mpr ⟨u, hu, hv⟩)
  · rintro ⟨u, hu, m, hm, hrun, hat, hbefore⟩
    refine ⟨m + 1, Nat.succ_le_succ hm, andThen_eq_next.mpr ⟨u, hu, hrun⟩, hat, ?_⟩
    rintro (_ | j) v hj hv
    · cases hv
      exact h
    · obtain ⟨u', hu', hv⟩ := andThen_eq_next.mp hv
      rw [hu] at hu'
      cases hu'
      exact hbefore j v (Nat.lt_of_succ_lt_succ hj) hv

/-- The run to a PC is the shortest run of CPU steps that ends with PC there. -/
theorem runUntilPc_eq_some : runUntilPc a n s = .next (some t) ↔ FirstAt a n s t := by
  by_cases hpc : s.cpu.pc = a
  · rw [runUntilPc_here hpc, firstAt_here hpc]
    simp [eq_comm]
  · induction n generalizing s with
    | zero =>
      rw [runUntilPc_zero hpc]
      exact iff_of_false (by simp) (firstAt_zero hpc)
    | succ n ih =>
      rw [runUntilPc_succ hpc, firstAt_succ hpc, andThen_eq_next]
      refine exists_congr fun u => and_congr_right fun _ => ?_
      by_cases hpc' : u.cpu.pc = a
      · rw [runUntilPc_here hpc', firstAt_here hpc']
        simp [eq_comm]
      · exact ih hpc'

end

/-! ### A jump to itself -/

/-- The encoding of a jump to an address (R122, R261). -/
theorem decode_jmp (w : Word) :
    decode [0x4C, BitVec.ofNat 8 (w.toNat % 256), BitVec.ofNat 8 (w.toNat / 256)] = .ok (.jmp (.abs w), []) := by
  have hlow : BitVec.ofNat 8 (w.toNat % 256) = loByte w := by
    apply BitVec.eq_of_toNat_eq
    rw [toNat_loByte, BitVec.toNat_ofNat, Nat.mod_mod]
  have hhigh : BitVec.ofNat 8 (w.toNat / 256) = hiByte w := by
    apply BitVec.eq_of_toNat_eq
    rw [toNat_hiByte, BitVec.toNat_ofNat, Nat.mod_eq_of_lt (by have := w.isLt; omega)]
  rw [hlow, hhigh]
  exact decode_of_parts (i := .jmp (.abs w)) (o := .abs w) (e := ⟨.abs, 0x4C, 3⟩) rfl rfl

/-- A CPU step at a jump to itself reports the cycles of the jump and changes nothing else (R261). -/
theorem cpuStep_selfJump (h : AtSelfJump s) (hnmi : s.cpu.nmiPending = false)
    (hirq : s.irqLine = true → s.cpu.p.i = true) : cpuStep s = .next (s.setStall (s.params.cycles 0x4C - 1)) := by
  obtain ⟨hstored, hbytes⟩ := h
  have hreads := fetchReads_storedByte (s := s) hstored
  rw [hbytes] at hreads
  have hmasked : s.irqLine = false ∨ s.cpu.p.i = true := by
    cases hline : s.irqLine with
    | false => exact .inl rfl
    | true => exact .inr (hirq hline)
  rw [cpuStep_instruction hnmi hmasked, runInstruction, fetch_of_decode (decode_jmp s.cpu.pc) hreads]
  rfl

/-- What a run that stays at a jump to itself leaves after `n` CPU steps. -/
structure Stays (s : State) (n : Nat) (t : State) : Prop where
  mem : t.mem = s.mem
  cart : t.cart = s.cart
  params : t.params = s.params
  irqLine : t.irqLine = s.irqLine
  boundary : AtBoundary t
  cpu : t.cpu = { s.cpu with cyc := s.cpu.cyc + n * (s.params.cycles 0x4C - 1 + 1), nmiPending := t.cpu.nmiPending }

theorem Stays.atSelfJump {n : Nat} {t : State} (h : Stays s n t) (hs : AtSelfJump s) : AtSelfJump t := by
  have hpc : t.cpu.pc = s.cpu.pc := by rw [h.cpu]
  simpa only [AtSelfJump, storedByte, hpc, h.mem, h.cart] using hs

theorem Stays.trans {m n : Nat} {t u : State} (h : Stays s m t) (h' : Stays t n u) : Stays s (m + n) u := by
  refine ⟨h'.mem.trans h.mem, h'.cart.trans h.cart, h'.params.trans h.params, h'.irqLine.trans h.irqLine, h'.boundary,
    h'.cpu.trans ?_⟩
  generalize u.cpu.nmiPending = pending
  rw [h.cpu, h.params]
  simp only [Nat.add_mul, Nat.add_assoc]

/-- One step at the jump. -/
theorem boundaryStep_stays (hs : AtBoundary s) (hjump : AtSelfJump s) (hnmi : s.cpu.nmiPending = false)
    (hirq : s.irqLine = true → s.cpu.p.i = true) : ∃ t, boundaryStep s = .next t ∧ Stays s 1 t := by
  have hstep := cpuStep_selfJump (s := s.setCyc (s.cpu.cyc + 1)) hjump hnmi hirq
  obtain ⟨hrun, -, hat, -⟩ := boundaryStep_ticks hs hstep
  obtain ⟨-, -, -, hstall⟩ := hs
  refine ⟨_, hrun, ?_, ?_, ?_, ?_, hat, (congrArg State.cpu (elapse_eq _ _ _)).trans ?_⟩
  · rw [elapse_eq]; rfl
  · rw [elapse_eq]; rfl
  · rw [elapse_eq]; rfl
  · rw [elapse_eq]; rfl
  · generalize (State.elapse _ _ _).cpu.nmiPending = pending
    simp [State.setStall, State.setCyc, hstall, Nat.add_assoc, Nat.add_comm 1]

theorem runSteps_stays {n : Nat} (hs : AboutToFetch s) (hjump : AtSelfJump s)
    (hnmi : ∀ m u, m < n → runSteps m s = .next u → u.cpu.nmiPending = false) :
    ∃ t, runSteps n s = .next t ∧ Stays s n t := by
  obtain ⟨hboundary, -, hirq⟩ := hs
  induction n with
  | zero => exact ⟨s, rfl, rfl, rfl, rfl, rfl, hboundary, by rw [Nat.zero_mul, Nat.add_zero]⟩
  | succ n ih =>
    obtain ⟨t, ht, hstays⟩ := ih fun m u hm => hnmi m u (Nat.lt_succ_of_lt hm)
    have hflags : t.cpu.p = s.cpu.p := by rw [hstays.cpu]
    obtain ⟨u, hu, hnext⟩ := boundaryStep_stays hstays.boundary (hstays.atSelfJump hjump) (hnmi n t n.lt_succ_self ht)
      (by rw [hstays.irqLine, hflags]; exact hirq)
    exact ⟨u, by rw [runSteps_add, ht, andThen_next, runSteps_one, hu], hstays.trans hnext⟩

end

end Sys2Proof.Machine

namespace Sys2Proof.Spec

open Sys2Proof.Machine

/-- Settles O46: ticks and the coarser step share what elapses between two CPU steps; a run is a run of ticks by induction
on its steps, and one at a jump to itself stays there by induction too. -/
theorem coarseStepIsTheRunOfTicks : Obligations.CoarseStepIsTheRunOfTicks := by
  unfold Obligations.CoarseStepIsTheRunOfTicks
  refine ⟨fun s h => ⟨fun t ht => ⟨_, boundaryStep_ticks h ht⟩, fun f hf => ?_, fun r hr => ?_⟩, fun s h ha => ?_,
    fun n s t h => runSteps_ticks h, fun m n s => ⟨rfl, runSteps_one s, runSteps_add m n s⟩,
    fun s n hs hjump hnmi => ?_⟩
  · have hf : cpuStep (s.setCyc (s.cpu.cyc + 1)) = .fault f := hf
    rw [boundaryStep_eq h, hf, andThen_fault]
  · have hr : cpuStep (s.setCyc (s.cpu.cyc + 1)) = .refused r := hr
    rw [boundaryStep_eq h, hr, andThen_refused]
  · refine ⟨nextBoundary s, ticks_nextBoundary h ha, atBoundary_nextBoundary h ha, ?_,
      boundaryStep_nextBoundary h ha, fun a n t => ?_⟩
    · have hcpu := congrArg State.cpu (elapse_eq (dotsToCpuTick s + s.params.ppuPerCpu * s.cpu.stall) s.cpu.stall s)
      rw [Nat.sub_self] at hcpu
      exact hcpu
    · rw [runToSelfJump, toBoundary_eq h ha, andThen_next]
      exact runUntilPc_eq_some
  · obtain ⟨t, ht, hstays⟩ := runSteps_stays hs hjump hnmi
    exact ⟨t, ht, hstays.mem, hstays.cpu⟩

end Sys2Proof.Spec
end
